-- ==== Sys2Proof/Word.lean ====
section
/-! DEFINITION. The widths of the core's values (00_scope.md R6, R9): all unsigned, none signed. -/

namespace Sys2Proof

/-- A `u8`: a register, a timer, a memory cell, the immediate `kk`. -/
abbrev Byte := BitVec 8

/-- A `u16`: `I`, `pc`, a return address, an instruction word. -/
abbrev Word := BitVec 16

/-- A 4-bit field of the instruction word: a register name `x`, `y`, or the row count `n` (R8). -/
abbrev Nibble := BitVec 4

/-- The 12-bit address field `nnn` (R8). -/
abbrev Addr := BitVec 12

end Sys2Proof
end

