-- ==== Sys2Proof/Machine/Flags.lean ====
section
/-! DEFINITION. The values the flag register `V[15]` takes (10_state.md R22) and the 8-bit results
beside them (42_alu.md R180). -/

namespace Sys2Proof.Machine

/-- `b2u` (00_scope.md R9). -/
def b2u (c : Bool) : Byte := if c then 1 else 0

/-- The exact sum of two bytes, 0..510 (R187). -/
def exactSum (a b : Byte) : Nat := a.toNat + b.toNat

/-- The carry of an exact sum: above 255 (R187). -/
def carryFlag (sum : Nat) : Byte := b2u (decide (sum > 255))

/-- An exact sum reduced modulo 256 (R187). -/
def narrowSum (sum : Nat) : Byte := BitVec.ofNat 8 sum

/-- The flag of a subtraction: the minuend is strictly greater (R180, R188, R190). -/
def greaterFlag (a b : Byte) : Byte := b2u (decide (a.toNat > b.toNat))

/-- The bit `8xy6` shifts out: `a & 1` (R189). -/
def lowBitFlag (a : Byte) : Byte := a &&& 1

/-- The bit `8xyE` shifts out: `a >> 7` (R191). -/
def highBitFlag (a : Byte) : Byte := a >>> 7

/-- The flag of `Fx1E`: the new index is above `0x0F00` (43_index_memory.md R221). -/
def indexFlag (i : Word) : Byte := b2u (decide (i.toNat > 0x0F00))

end Sys2Proof.Machine
end

