-- ==== Sys2Proof/Syntax.lean ====
section
/-! DEFINITION. The 34 instructions (30_encoding.md R95): one constructor per row of
spec/opcode_table.json, its operands the fields of the word (R91, R92). -/

namespace Sys2Proof

/-- An instruction, named as the rows of opcode_table.json. `8xy6` and `8xyE` carry `y`, which is
decoded and not used (R94), so that no bit of a word is lost. -/
inductive Instr where
  | cls                              -- 00E0
  | ret                              -- 00EE
  | jp (nnn : Addr)                  -- 1nnn
  | call (nnn : Addr)                -- 2nnn
  | seVB (x : Nibble) (kk : Byte)    -- 3xkk
  | sneVB (x : Nibble) (kk : Byte)   -- 4xkk
  | seVV (x y : Nibble)              -- 5xy0
  | ldVB (x : Nibble) (kk : Byte)    -- 6xkk
  | addVB (x : Nibble) (kk : Byte)   -- 7xkk
  | ldVV (x y : Nibble)              -- 8xy0
  | orVV (x y : Nibble)              -- 8xy1
  | andVV (x y : Nibble)             -- 8xy2
  | xorVV (x y : Nibble)             -- 8xy3
  | addVV (x y : Nibble)             -- 8xy4
  | sub (x y : Nibble)               -- 8xy5
  | shr (x y : Nibble)               -- 8xy6
  | subn (x y : Nibble)              -- 8xy7
  | shl (x y : Nibble)               -- 8xyE
  | sneVV (x y : Nibble)             -- 9xy0
  | ldI (nnn : Addr)                 -- Annn
  | jpV0 (nnn : Addr)                -- Bnnn
  | rnd (x : Nibble) (kk : Byte)     -- Cxkk
  | drw (x y n : Nibble)             -- Dxyn
  | skp (x : Nibble)                 -- Ex9E
  | sknp (x : Nibble)                -- ExA1
  | ldVDT (x : Nibble)               -- Fx07
  | ldVK (x : Nibble)                -- Fx0A
  | ldDTV (x : Nibble)               -- Fx15
  | ldSTV (x : Nibble)               -- Fx18
  | addIV (x : Nibble)               -- Fx1E
  | ldFV (x : Nibble)                -- Fx29
  | ldBV (x : Nibble)                -- Fx33
  | ldMemV (x : Nibble)              -- Fx55
  | ldVMem (x : Nibble)              -- Fx65
  deriving DecidableEq, Repr

end Sys2Proof
end

