-- ==== Sys2Proof/WellFormed.lean ====
section
/-! DEFINITION. When an instruction's operands are in the ranges the encoding admits (30_encoding.md
R92–R94). The fields of `Instr` already have the field widths, so every instruction is well formed
(Laws/Encoding.lean proves it); the checks say the ranges on plain numbers. -/

namespace Sys2Proof

/-- `x` and `y` name one of the registers `V[0]`..`V[15]` (R94). -/
def registerInRange (r : Nat) : Bool := decide (r < 16)

/-- `kk` is a `u8` (R93). -/
def immediateInRange (k : Nat) : Bool := decide (k < 256)

/-- `nnn` is a `u12` (R93). -/
def addressInRange (a : Nat) : Bool := decide (a < 4096)

/-- `n` is a count `0..15` (R93). -/
def rowCountInRange (n : Nat) : Bool := decide (n < 16)

/-- Every operand of the instruction is in its range. -/
def Instr.wellFormed : Instr → Bool
  | .cls | .ret => true
  | .jp nnn | .call nnn | .ldI nnn | .jpV0 nnn => addressInRange nnn.toNat
  | .seVB x kk | .sneVB x kk | .ldVB x kk | .addVB x kk | .rnd x kk =>
    registerInRange x.toNat && immediateInRange kk.toNat
  | .seVV x y | .sneVV x y | .ldVV x y | .orVV x y | .andVV x y | .xorVV x y | .addVV x y
  | .sub x y | .shr x y | .subn x y | .shl x y => registerInRange x.toNat && registerInRange y.toNat
  | .drw x y n => registerInRange x.toNat && registerInRange y.toNat && rowCountInRange n.toNat
  | .skp x | .sknp x | .ldVDT x | .ldVK x | .ldDTV x | .ldSTV x | .addIV x | .ldFV x | .ldBV x
  | .ldMemV x | .ldVMem x => registerInRange x.toNat

end Sys2Proof
end

