-- ==== Sys2Proof/Decode.lean ====
section
/-! DEFINITION. Fields, decode and encode (30_encoding.md R90–R98). Decode is total: a word is one of
the 34 instructions or invalid. The table of match and mask words stands beside it, as
spec/opcode_table.json gives it. -/

namespace Sys2Proof

/-- `op = w[15:12]` (R92). -/
def fieldOp (w : Word) : Nibble := w.extractLsb' 12 4
/-- `x = w[11:8]` (R92). -/
def fieldX (w : Word) : Nibble := w.extractLsb' 8 4
/-- `y = w[7:4]` (R92). -/
def fieldY (w : Word) : Nibble := w.extractLsb' 4 4
/-- `n = w[3:0]` (R92). -/
def fieldN (w : Word) : Nibble := w.extractLsb' 0 4
/-- `kk = w[7:0]` (R92). -/
def fieldKK (w : Word) : Byte := w.extractLsb' 0 8
/-- `nnn = w[11:0]` (R92). -/
def fieldNNN (w : Word) : Addr := w.extractLsb' 0 12

/-- Family 8: the sub-opcode is `n` (R96). -/
def decodeFamily8 (x y n : Nibble) : Option Instr :=
  match n.toNat with
  | 0x0 => some (.ldVV x y)
  | 0x1 => some (.orVV x y)
  | 0x2 => some (.andVV x y)
  | 0x3 => some (.xorVV x y)
  | 0x4 => some (.addVV x y)
  | 0x5 => some (.sub x y)
  | 0x6 => some (.shr x y)
  | 0x7 => some (.subn x y)
  | 0xE => some (.shl x y)
  | _ => none

/-- Family E: the sub-opcode is `kk` (R96). -/
def decodeFamilyE (x : Nibble) (kk : Byte) : Option Instr :=
  match kk.toNat with
  | 0x9E => some (.skp x)
  | 0xA1 => some (.sknp x)
  | _ => none

/-- Family F: the sub-opcode is `kk` (R96). -/
def decodeFamilyF (x : Nibble) (kk : Byte) : Option Instr :=
  match kk.toNat with
  | 0x07 => some (.ldVDT x)
  | 0x0A => some (.ldVK x)
  | 0x15 => some (.ldDTV x)
  | 0x18 => some (.ldSTV x)
  | 0x1E => some (.addIV x)
  | 0x29 => some (.ldFV x)
  | 0x33 => some (.ldBV x)
  | 0x55 => some (.ldMemV x)
  | 0x65 => some (.ldVMem x)
  | _ => none

/-- `Decode(w)` (R96): the instruction, or `none` for *invalid* (R97). A 4-bit `op` is at most `0xF`,
so the last arm is never taken. -/
def decode (w : Word) : Option Instr :=
  let x := fieldX w
  let y := fieldY w
  let n := fieldN w
  let kk := fieldKK w
  let nnn := fieldNNN w
  match (fieldOp w).toNat with
  | 0x0 => if w = 0x00E0#16 then some .cls else if w = 0x00EE#16 then some .ret else none
  | 0x1 => some (.jp nnn)
  | 0x2 => some (.call nnn)
  | 0x3 => some (.seVB x kk)
  | 0x4 => some (.sneVB x kk)
  | 0x5 => if n = 0#4 then some (.seVV x y) else none
  | 0x6 => some (.ldVB x kk)
  | 0x7 => some (.addVB x kk)
  | 0x8 => decodeFamily8 x y n
  | 0x9 => if n = 0#4 then some (.sneVV x y) else none
  | 0xA => some (.ldI nnn)
  | 0xB => some (.jpV0 nnn)
  | 0xC => some (.rnd x kk)
  | 0xD => some (.drw x y n)
  | 0xE => decodeFamilyE x kk
  | 0xF => decodeFamilyF x kk
  | _ => none

/-- What reading an instruction from a list of bytes gives. -/
inductive Decoded where
  /-- the instruction, and the bytes after it -/
  | instr (i : Instr) (rest : List Byte)
  /-- the word is illegal (R97): executing it raises DecodeFailure -/
  | invalid (w : Word)
  /-- fewer than two bytes: no instruction is shorter (R90); a fetch never meets this, every address
  being reduced (R61) -/
  | truncated
  deriving DecidableEq, Repr

/-- The word of two consecutive bytes, the one at the lower address first: big-endian (R62). -/
def wordOfBytes (hi lo : Byte) : Word := hi ++ lo

/-- The byte at the lower address: bits 15..8 (R62). -/
def highByte (w : Word) : Byte := w.extractLsb' 8 8
/-- The byte at the higher address: bits 7..0 (R62). -/
def lowByte (w : Word) : Byte := w.extractLsb' 0 8

/-- Reads one instruction from the bytes as they lie in memory; every instruction is two bytes (R90). -/
def decodeBytes : List Byte → Decoded
  | hi :: lo :: rest =>
    match decode (wordOfBytes hi lo) with
    | some i => .instr i rest
    | none => .invalid (wordOfBytes hi lo)
  | _ => .truncated

/-- A word of format `A`: `op nnn` (R91). -/
def wordA (op : Nibble) (nnn : Addr) : Word := op ++ nnn
/-- A word of formats `XKK` and `X`: `op x kk` (R91). -/
def wordXKK (op x : Nibble) (kk : Byte) : Word := op ++ x ++ kk
/-- A word of formats `XY` and `XYN`: `op x y n` (R91). -/
def wordXYN (op x y n : Nibble) : Word := op ++ x ++ y ++ n

/-- The word of an instruction, from the patterns of R95. -/
def encode : Instr → Word
  | .cls => 0x00E0#16
  | .ret => 0x00EE#16
  | .jp nnn => wordA 0x1 nnn
  | .call nnn => wordA 0x2 nnn
  | .seVB x kk => wordXKK 0x3 x kk
  | .sneVB x kk => wordXKK 0x4 x kk
  | .seVV x y => wordXYN 0x5 x y 0x0
  | .ldVB x kk => wordXKK 0x6 x kk
  | .addVB x kk => wordXKK 0x7 x kk
  | .ldVV x y => wordXYN 0x8 x y 0x0
  | .orVV x y => wordXYN 0x8 x y 0x1
  | .andVV x y => wordXYN 0x8 x y 0x2
  | .xorVV x y => wordXYN 0x8 x y 0x3
  | .addVV x y => wordXYN 0x8 x y 0x4
  | .sub x y => wordXYN 0x8 x y 0x5
  | .shr x y => wordXYN 0x8 x y 0x6
  | .subn x y => wordXYN 0x8 x y 0x7
  | .shl x y => wordXYN 0x8 x y 0xE
  | .sneVV x y => wordXYN 0x9 x y 0x0
  | .ldI nnn => wordA 0xA nnn
  | .jpV0 nnn => wordA 0xB nnn
  | .rnd x kk => wordXKK 0xC x kk
  | .drw x y n => wordXYN 0xD x y n
  | .skp x => wordXKK 0xE x 0x9E
  | .sknp x => wordXKK 0xE x 0xA1
  | .ldVDT x => wordXKK 0xF x 0x07
  | .ldVK x => wordXKK 0xF x 0x0A
  | .ldDTV x => wordXKK 0xF x 0x15
  | .ldSTV x => wordXKK 0xF x 0x18
  | .addIV x => wordXKK 0xF x 0x1E
  | .ldFV x => wordXKK 0xF x 0x29
  | .ldBV x => wordXKK 0xF x 0x33
  | .ldMemV x => wordXKK 0xF x 0x55
  | .ldVMem x => wordXKK 0xF x 0x65

/-- The bytes of an instruction, lowest address first (R62, R90). -/
def encodeBytes (i : Instr) : List Byte := [highByte (encode i), lowByte (encode i)]

/-- One row of spec/opcode_table.json: the bits it fixes and their values. -/
structure Row where
  mask : Word
  pattern : Word
  deriving DecidableEq, Repr

/-- The row of an instruction in spec/opcode_table.json (its `mask` and `match`). -/
def Instr.row : Instr → Row
  | .cls => ⟨0xFFFF, 0x00E0⟩
  | .ret => ⟨0xFFFF, 0x00EE⟩
  | .jp _ => ⟨0xF000, 0x1000⟩
  | .call _ => ⟨0xF000, 0x2000⟩
  | .seVB _ _ => ⟨0xF000, 0x3000⟩
  | .sneVB _ _ => ⟨0xF000, 0x4000⟩
  | .seVV _ _ => ⟨0xF00F, 0x5000⟩
  | .ldVB _ _ => ⟨0xF000, 0x6000⟩
  | .addVB _ _ => ⟨0xF000, 0x7000⟩
  | .ldVV _ _ => ⟨0xF00F, 0x8000⟩
  | .orVV _ _ => ⟨0xF00F, 0x8001⟩
  | .andVV _ _ => ⟨0xF00F, 0x8002⟩
  | .xorVV _ _ => ⟨0xF00F, 0x8003⟩
  | .addVV _ _ => ⟨0xF00F, 0x8004⟩
  | .sub _ _ => ⟨0xF00F, 0x8005⟩
  | .shr _ _ => ⟨0xF00F, 0x8006⟩
  | .subn _ _ => ⟨0xF00F, 0x8007⟩
  | .shl _ _ => ⟨0xF00F, 0x800E⟩
  | .sneVV _ _ => ⟨0xF00F, 0x9000⟩
  | .ldI _ => ⟨0xF000, 0xA000⟩
  | .jpV0 _ => ⟨0xF000, 0xB000⟩
  | .rnd _ _ => ⟨0xF000, 0xC000⟩
  | .drw _ _ _ => ⟨0xF000, 0xD000⟩
  | .skp _ => ⟨0xF0FF, 0xE09E⟩
  | .sknp _ => ⟨0xF0FF, 0xE0A1⟩
  | .ldVDT _ => ⟨0xF0FF, 0xF007⟩
  | .ldVK _ => ⟨0xF0FF, 0xF00A⟩
  | .ldDTV _ => ⟨0xF0FF, 0xF015⟩
  | .ldSTV _ => ⟨0xF0FF, 0xF018⟩
  | .addIV _ => ⟨0xF0FF, 0xF01E⟩
  | .ldFV _ => ⟨0xF0FF, 0xF029⟩
  | .ldBV _ => ⟨0xF0FF, 0xF033⟩
  | .ldMemV _ => ⟨0xF0FF, 0xF055⟩
  | .ldVMem _ => ⟨0xF0FF, 0xF065⟩

/-- The 34 rows of spec/opcode_table.json, in its order. -/
def opcodeTable : List Row :=
  [⟨0xFFFF, 0x00E0⟩, ⟨0xFFFF, 0x00EE⟩, ⟨0xF000, 0x1000⟩, ⟨0xF000, 0x2000⟩, ⟨0xF000, 0x3000⟩,
   ⟨0xF000, 0x4000⟩, ⟨0xF00F, 0x5000⟩, ⟨0xF000, 0x6000⟩, ⟨0xF000, 0x7000⟩, ⟨0xF00F, 0x8000⟩,
   ⟨0xF00F, 0x8001⟩, ⟨0xF00F, 0x8002⟩, ⟨0xF00F, 0x8003⟩, ⟨0xF00F, 0x8004⟩, ⟨0xF00F, 0x8005⟩,
   ⟨0xF00F, 0x8006⟩, ⟨0xF00F, 0x8007⟩, ⟨0xF00F, 0x800E⟩, ⟨0xF00F, 0x9000⟩, ⟨0xF000, 0xA000⟩,
   ⟨0xF000, 0xB000⟩, ⟨0xF000, 0xC000⟩, ⟨0xF000, 0xD000⟩, ⟨0xF0FF, 0xE09E⟩, ⟨0xF0FF, 0xE0A1⟩,
   ⟨0xF0FF, 0xF007⟩, ⟨0xF0FF, 0xF00A⟩, ⟨0xF0FF, 0xF015⟩, ⟨0xF0FF, 0xF018⟩, ⟨0xF0FF, 0xF01E⟩,
   ⟨0xF0FF, 0xF029⟩, ⟨0xF0FF, 0xF033⟩, ⟨0xF0FF, 0xF055⟩, ⟨0xF0FF, 0xF065⟩]

/-- A word has the bits a row fixes. -/
def Row.admits (r : Row) (w : Word) : Bool := w &&& r.mask == r.pattern

/-- The word numbered as spec/opcode_table.json numbers it: its lowest `nbits` bits of `w`, the bits
above zero; every instruction is one 16-bit word (R90). -/
def tableWord (nbits w : Nat) : Word := BitVec.ofNat 16 (w % 2 ^ nbits)

/-- The instruction the decoder reads from the table's word `w` of `nbits` bits, laid out in memory
big-endian. -/
def decodeTableWord (nbits w : Nat) : Option Instr :=
  match decodeBytes [highByte (tableWord nbits w), lowByte (tableWord nbits w)] with
  | .instr i _ => some i
  | .invalid _ => none
  | .truncated => none

end Sys2Proof
end

