-- ==== Sys2Proof/Config.lean ====
section
/-! DEFINITION. The parameters the source leaves open (00_scope.md R7): those with a default are plain
data, those without one are free values with no body. -/

namespace Sys2Proof

/-- The two behaviours of `Fx0A` (R254). -/
inductive KeywaitMode where
  /-- the reference's behaviour: advance, store nothing -/
  | noop
  /-- wait until a key is pressed, store the lowest one -/
  | block
  deriving DecidableEq, Repr

/-- The parameters that have a default, fixed for the life of the core (R7, R35). -/
structure Config where
  /-- `KEYWAIT_MODE` -/
  keywaitMode : KeywaitMode
  /-- `GLYPHS`: the 80 bytes Initialize writes at `0x000`–`0x04F` -/
  glyphs : Vector Byte 80
  deriving DecidableEq, Repr

/-- The default glyph bytes (R37), one row a digit, top row first. The spec takes them from general
knowledge (D16, G1); log entry 3. -/
def Config.defaultGlyphs : Vector Byte 80 :=
  #v[
    0xF0, 0x90, 0x90, 0x90, 0xF0,
    0x20, 0x60, 0x20, 0x20, 0x70,
    0xF0, 0x10, 0xF0, 0x80, 0xF0,
    0xF0, 0x10, 0xF0, 0x10, 0xF0,
    0x90, 0x90, 0xF0, 0x10, 0x10,
    0xF0, 0x80, 0xF0, 0x10, 0xF0,
    0xF0, 0x80, 0xF0, 0x90, 0xF0,
    0xF0, 0x10, 0x20, 0x40, 0x40,
    0xF0, 0x90, 0xF0, 0x90, 0xF0,
    0xF0, 0x90, 0xF0, 0x10, 0xF0,
    0xF0, 0x90, 0xF0, 0x90, 0x90,
    0xE0, 0x90, 0xE0, 0x90, 0xE0,
    0xF0, 0x80, 0x80, 0x80, 0xF0,
    0xE0, 0x90, 0x90, 0x90, 0xE0,
    0xF0, 0x80, 0xF0, 0x80, 0xF0,
    0xF0, 0x80, 0xF0, 0x80, 0x80]

/-- The defaults the spec chose: `noop` (D11) and the conventional font (D16). -/
def Config.default : Config := { keywaitMode := .noop, glyphs := Config.defaultGlyphs }

/-- `POWERON_MEMORY` (R7, R323, D17): the byte a cell holds that nothing has written since the core was
created, for each of the 4096 addresses. Free value: any byte at each address, so a claim holds for
every power-on memory. Log entry 1. -/
opaque Config.powerOnMemory : Nat → Byte

/-- The fields of the record other than memory and the fault latch, as the core is created (R20, R323). -/
structure PowerOn where
  regs : Vector Byte 16
  index : Word
  pc : Word
  stack : Vector Word 16
  sp : Fin 17
  keypad : Vector Bool 16
  dt : Byte
  st : Byte
  fb : Vector (Vector Bool 64) 32
  deriving DecidableEq, Repr, Inhabited

/-- The contents of those fields before the first reset (R323: they have no value). Free value: any
contents, so a claim about the core as created holds for all of them. Log entry 5. -/
opaque Config.powerOnFields : PowerOn

/-- `RAND` (R7, R192, D14): the `k`-th draw, as one of the 255 values 1..255, less one. Free value:
any sequence of draws. Log entry 2. -/
opaque Config.draw : Nat → Fin 255

/-- The `k`-th random byte, in 1..255, never 0 (R192). -/
def Config.rand (k : Nat) : Byte := BitVec.ofNat 8 ((Config.draw k).val + 1)

end Sys2Proof
end

