-- ==== Sys2Proof/Machine/State.lean ====
section
/-! DEFINITION. The state record (10_state.md R20) as plain data, the faults, the refusals, and the
state after reset (R38). -/

namespace Sys2Proof.Machine

/-- The three faults (60_exceptions.md R280), the causes of the fault latch. A fault is fatal but the
core keeps its state (R281, R286), so a meaning or the step takes it as a NEXT state with the latch
written; no step ends in `Outcome.fault`. Safe: the model goes on exactly as the spec says. -/
inductive Fault where
  /-- raised by the step when the fetched word is illegal (R282). Safe. -/
  | decodeFailure
  /-- raised by `2nnn` when `sp = 16` (R283). Safe. -/
  | stackOverflow
  /-- raised by `00EE` when `sp = 0` (R284). Safe. -/
  | stackUnderflow
  deriving DecidableEq, Repr

/-- The reasons for which there is no transition at all. -/
inductive Refusal where
  /-- raised by an arm of `exec` whose instruction has no meaning yet; no arm is left so. Safe. -/
  | notModelled (mnemonic : String)
  /-- raised by a step or `SetKey` before the first Initialize or LoadProgram: the state has no value
  yet and the spec refuses it (R326). Safe. -/
  | beforeReset
  /-- raised by LoadProgram on an image longer than 3584 bytes (R322). Safe. -/
  | loadTooLong
  deriving DecidableEq, Repr

/-- What the fault latch records (R34): the cause, the `pc` of the faulting step and its word. -/
structure FaultRecord where
  cause : Fault
  pc : Word
  word : Word
  deriving DecidableEq, Repr

/-- The output of a step (R301). -/
inductive StepResult where
  /-- the instruction executed and the timers were updated; `tone` is the tone trigger (R293) -/
  | ok (tone : Bool)
  /-- this step raised a fault, or the core was already faulted -/
  | faulted (r : FaultRecord)
  deriving DecidableEq, Repr

/-- The framebuffer: 32 rows of 64 pixels, so `fb[py * 64 + px]` of the row-major sequence of 2048 is
column `px` of row `py` (R32). -/
abbrev Framebuffer := Vector (Vector Bool 64) 32

/-- The framebuffer with every pixel clear (R38, R131). -/
def blankFb : Framebuffer := Vector.replicate 32 (Vector.replicate 64 false)

/-- The core (R20), with its parameters and the output of its latest step beside it. -/
structure State where
  /-- `V[0]`..`V[15]` (R21); `V[15]` is also the flag register (R22) -/
  regs : Vector Byte 16
  /-- `I` (R24) -/
  index : Word
  /-- the program counter, all 16 bits stored (R25) -/
  pc : Word
  /-- `stack[0]`..`stack[15]` (R26) -/
  stack : Vector Word 16
  /-- the stack pointer, `0..16` (R27, R28) -/
  sp : Fin 17
  /-- `key[0]`..`key[15]`, true while pressed (R29) -/
  keypad : Vector Bool 16
  /-- the delay timer (R30) -/
  dt : Byte
  /-- the sound timer (R31) -/
  st : Byte
  /-- the framebuffer (R32) -/
  fb : Framebuffer
  /-- the cells written, addresses strictly rising; an unlisted cell reads as `State.unlisted` says
  (R33; log entry 1) -/
  memory : List Host.Cell
  /-- the fault latch (R34) -/
  fault : Option FaultRecord
  /-- `KEYWAIT_MODE` and `GLYPHS`, fixed for the life of the core (R7, R35; log entry 3) -/
  config : Config
  /-- the output of the latest step, none before the first (R301; log entry 4) -/
  result : Option StepResult
  /-- an Initialize or LoadProgram has happened (R323, R326; log entry 5) -/
  started : Bool
  /-- MODEL'S OWN: how many random draws have been taken; it numbers the free values of `Cxkk`
  (R192; log entry 2) -/
  draws : Nat
  deriving DecidableEq, Repr

/-- The state after Initialize at power-on (R38), with the default parameters (R7): every listed field
at its reset value; of memory nothing is listed, so `0x000`–`0x04F` reads as the glyph table and the
rest as the power-on memory. -/
def State.reset : State where
  regs := Vector.replicate 16 0
  index := 0
  pc := 0x200
  stack := Vector.replicate 16 0
  sp := 0
  keypad := Vector.replicate 16 false
  dt := 0
  st := 0
  fb := blankFb
  memory := []
  fault := none
  config := Config.default
  result := none
  started := true
  draws := 0

end Sys2Proof.Machine
end

