-- ==== Sys2Proof/Machine/Ops.lean ====
section
/-! DEFINITION. The named operations on the state: registers, memory, the program counter, the call
stack, raising a fault, and what a cycle does around an instruction. -/

namespace Sys2Proof.Machine

/-! ### Registers (10_state.md R21) -/

/-- `V[x]`. -/
def State.reg (s : State) (x : Nibble) : Byte := s.regs[x.toNat]'x.isLt

/-- `V[x] <- v`. -/
def State.setReg (s : State) (x : Nibble) (v : Byte) : State :=
  { s with regs := s.regs.set x.toNat v x.isLt }

/-- `V[15] <- v`: the flag register (R22). -/
def State.setFlag (s : State) (v : Byte) : State := s.setReg 15 v

/-- `I <- v` (R24). -/
def State.setIndex (s : State) (v : Word) : State := { s with index := v }

/-- `DT <- v` (R30). -/
def State.setDelay (s : State) (v : Byte) : State := { s with dt := v }

/-- `ST <- v` (R31). -/
def State.setSound (s : State) (v : Byte) : State := { s with st := v }

/-- Replaces the framebuffer (R32). -/
def State.setFb (s : State) (f : Framebuffer) : State := { s with fb := f }

/-! ### The list of written cells -/

/-- The byte listed at an address, if one is. -/
def cellAt : List Host.Cell → Nat → Option Byte
  | [], _ => none
  | (b, v) :: t, a => if a = b then some v else cellAt t a

/-- Lists a byte at an address, keeping the addresses rising. -/
def putCell (a : Nat) (v : Byte) : List Host.Cell → List Host.Cell
  | [] => [(a, v)]
  | (b, w) :: t =>
    if a < b then (a, v) :: (b, w) :: t
    else if a = b then (a, v) :: t
    else (b, w) :: putCell a v t

/-- Takes an address off the list. -/
def dropCell (a : Nat) (m : List Host.Cell) : List Host.Cell := m.filter fun c => c.1 != a

/-- The addresses are strictly rising. -/
def risingCells : List Host.Cell → Bool
  | [] => true
  | (a, _) :: t => t.all (fun c => decide (a < c.1)) && risingCells t

/-! ### Memory (20_memory.md R60, R61): every address is reduced modulo 4096 -/

/-- The cell an address of any width names (R61). -/
def cellIndex (a : Nat) : Nat := a % 4096

/-- The glyph byte that stands at a cell by a reset, for the cells `0x000`–`0x04F` (R37); before the
first reset there is none, the table not being written yet (R323). -/
def State.glyphByte (s : State) (c : Nat) : Option Byte :=
  if s.started then
    if h : c < 80 then some s.config.glyphs[c] else none
  else none

/-- What a cell that is not listed reads as: once the core is reset, the glyph table below `0x050` and
the power-on memory above (R38); before, the power-on memory everywhere (R323). -/
def State.unlisted (s : State) (c : Nat) : Byte :=
  (s.glyphByte c).getD (Config.powerOnMemory c)

/-- `MemRead(a, 1)` (R10, R61). -/
def State.read (s : State) (a : Nat) : Byte :=
  (cellAt s.memory (cellIndex a)).getD (s.unlisted (cellIndex a))

/-- `MemWrite(a, 1, v)` (R10, R61). Writing a glyph cell's own glyph byte takes the cell off the list;
where the unlisted byte is a free value, every written cell is listed. -/
def State.write (s : State) (a : Nat) (v : Byte) : State :=
  { s with
    memory :=
      if s.glyphByte (cellIndex a) = some v then dropCell (cellIndex a) s.memory
      else putCell (cellIndex a) v s.memory }

/-- The canonical form of memory: addresses strictly rising, each one a cell of the 4096 (R33), and no
entry equal to the glyph byte its cell would read as unlisted. -/
def State.memoryWf (s : State) : Bool :=
  risingCells s.memory &&
    s.memory.all fun c => decide (c.1 < 4096) && (s.glyphByte c.1 != some c.2)

/-! ### Sequencing (30_encoding.md R101): all `pc` arithmetic is modulo 65536 -/

/-- `pc <- target`. -/
def State.jump (s : State) (target : Word) : State := { s with pc := target }

/-- `next`: `pc <- pc + 2` (R10). -/
def State.advance (s : State) : State := s.jump (s.pc + 2)

/-- `skip` when the condition holds, else `next` (R10, R101). -/
def State.skipIf (s : State) (c : Bool) : State := s.jump (s.pc + if c then 4 else 2)

/-! ### Taking a fault (60_exceptions.md R281) -/

/-- `raise F(info)`: the latch is written with the cause, the `pc` of this step and the word; nothing
else changes (R281). -/
def State.raise (s : State) (cause : Fault) (word : Word) : State :=
  { s with fault := some { cause := cause, pc := s.pc, word := word } }

/-! ### The call stack (10_state.md R26, R27) -/

/-- Pushes a return address and jumps, or raises StackOverflow when the stack is full (41_flow.md
R152, R283); `word` is the word of the call. -/
def State.pushJump (s : State) (ra target word : Word) : State :=
  if h : s.sp.val < 16 then
    { s with
      stack := s.stack.set s.sp.val ra h
      sp := ⟨s.sp.val + 1, Nat.succ_lt_succ h⟩
      pc := target }
  else s.raise .stackOverflow word

/-- Pops a return address into `pc`, or raises StackUnderflow when the stack is empty (41_flow.md R150,
R284); the popped entry stays in place (R26). -/
def State.popJump (s : State) (word : Word) : State :=
  if h : 0 < s.sp.val then
    { s with
      sp := ⟨s.sp.val - 1, Nat.lt_of_le_of_lt (Nat.sub_le _ _) s.sp.isLt⟩
      pc := s.stack[s.sp.val - 1]'(Nat.sub_one_lt_of_le h (Nat.le_of_lt_succ s.sp.isLt)) }
  else s.raise .stackUnderflow word

/-! ### The cycle around an instruction (30_encoding.md R100) -/

/-- `Fetch(pc)` (R62): two bytes, big-endian, each address reduced. -/
def State.fetchWord (s : State) : Word :=
  wordOfBytes (s.read s.pc.toNat) (s.read (s.pc.toNat + 1))

/-- A timer counts down by one while it is above zero (R291, R292). -/
def countDown (v : Byte) : Byte := if v = 0 then 0 else v - 1

/-- The timer update (R293), its tone trigger given out as the step's result. -/
def State.timerUpdate (s : State) : State :=
  { s with
    dt := countDown s.dt
    st := countDown s.st
    result := some (.ok (s.st == 1)) }

/-- The end of a cycle: a step that raised a fault updates no timer and gives out the record (R281);
any other updates the timers (R291). -/
def State.endCycle (s : State) : State :=
  match s.fault with
  | some r => { s with result := some (.faulted r) }
  | none => s.timerUpdate

/-- A fetched word that is illegal: DecodeFailure, and the cycle ends (R97, R282). -/
def State.decodeFailure (s : State) (word : Word) : State := (s.raise .decodeFailure word).endCycle

/-- A step of a faulted core: the same record is given out, nothing else changes (R286). -/
def State.stayFaulted (s : State) (r : FaultRecord) : State := { s with result := some (.faulted r) }

/-- Whether the core has been reset; before that a step is refused (R326). -/
def State.ready (s : State) : Bool := s.started

/-- Lays an instruction word at `pc`, big-endian, in a core that is reset and not faulted. -/
def State.placeWord (s : State) (w : Word) : State :=
  let u := { s with fault := none, started := true }
  (u.write u.pc.toNat (highByte w)).write (u.pc.toNat + 1) (lowByte w)

end Sys2Proof.Machine
end

