-- ==== Sys2Proof/Machine/Operands.lean ====
section
/-! DEFINITION. Operand forms (30_encoding.md R93, R94): immediates, the registers of a range, the key
a register names, index-relative addresses, sprite bits and pixels. -/

namespace Sys2Proof.Machine

/-- An address immediate, zero-extended to 16 bits (R93). -/
def zext16 (nnn : Addr) : Word := nnn.setWidth 16

/-- A register value, zero-extended to 16 bits (R9, R157). -/
def zextByte (v : Byte) : Word := v.setWidth 16

/-- `V[i]` of a register range `V[0..x]`, `i` a plain number below 16 (R94). -/
def rangeReg (i : Nat) : Nibble := BitVec.ofNat 4 i

/-- The numbers of the registers of the range `V[0..x]`, inclusive (R224, R225). -/
def registerRange (x : Nibble) : List Nat := List.range (x.toNat + 1)

/-- `key[k]`, the key number reduced modulo 16 (44_keys_timers.md R250). -/
def State.keyDown (s : State) (k : Nat) : Bool := s.keypad[k % 16]'(Nat.mod_lt _ (by decide))

/-- `key[V[x] & 0xF]`: the key a register names (R250). -/
def State.keyOf (s : State) (x : Nibble) : Bool := s.keyDown (s.reg x &&& 0x0F).toNat

/-- `min { k | key[k] = true }`, if any key is pressed (R254). -/
def State.lowestKey (s : State) : Option Nat := (List.range 16).find? s.keyDown

/-- The address `I + k` of the `k`-th byte of an access (43_index_memory.md R226). -/
def State.indexAddr (s : State) (k : Nat) : Nat := s.index.toNat + k

/-- Bit of column `c` of a sprite row: bit 7 is column 0, the leftmost (40_display.md R132). -/
def spriteBit (b : Byte) (c : Nat) : Bool := b.getLsbD (7 - c)

/-- The column a draw coordinate names (40_display.md R130). -/
def wrapColumn (cx : Nat) : Fin 64 := ⟨cx % 64, Nat.mod_lt _ (by decide)⟩

/-- The row a draw coordinate names (40_display.md R130). -/
def wrapRow (cy : Nat) : Fin 32 := ⟨cy % 32, Nat.mod_lt _ (by decide)⟩

/-- `pix(cx mod 64, cy mod 32)`, which is `fb[(cy mod 32)*64 + (cx mod 64)]` (R32, R130). -/
def pixelAt (f : Framebuffer) (cx cy : Nat) : Bool := f[wrapRow cy][wrapColumn cx]

/-- The framebuffer with that pixel turned over (R133). -/
def flipPixel (f : Framebuffer) (cx cy : Nat) : Framebuffer :=
  f.set (wrapRow cy) (f[wrapRow cy].set (wrapColumn cx) (!pixelAt f cx cy))

/-- The pixel of the core's framebuffer at a coordinate. -/
def State.pixel (s : State) (cx cy : Nat) : Bool := pixelAt s.fb cx cy

end Sys2Proof.Machine
end

