-- ==== Sys2Proof/Machine/Alu.lean ====
section
/-! DEFINITION. The ALU family (42_alu.md). The flag is written before the result, and each later
statement reads the state the earlier one left (R193). -/

namespace Sys2Proof.Machine

/-- `6xkk` (R181). -/
def execLdVB (x : Nibble) (kk : Byte) (s : State) : Host.Outcome State Fault Refusal :=
  .next (s.setReg x kk).advance

/-- `7xkk` (R182): modulo 256, no flag. -/
def execAddVB (x : Nibble) (kk : Byte) (s : State) : Host.Outcome State Fault Refusal :=
  .next (s.setReg x (narrowSum (exactSum (s.reg x) kk))).advance

/-- `8xy0` (R183). -/
def execLdVV (x y : Nibble) (s : State) : Host.Outcome State Fault Refusal :=
  .next (s.setReg x (s.reg y)).advance

/-- `8xy1` (R184). -/
def execOrVV (x y : Nibble) (s : State) : Host.Outcome State Fault Refusal :=
  .next (s.setReg x (s.reg x ||| s.reg y)).advance

/-- `8xy2` (R185). -/
def execAndVV (x y : Nibble) (s : State) : Host.Outcome State Fault Refusal :=
  .next (s.setReg x (s.reg x &&& s.reg y)).advance

/-- `8xy3` (R186). -/
def execXorVV (x y : Nibble) (s : State) : Host.Outcome State Fault Refusal :=
  .next (s.setReg x (s.reg x ^^^ s.reg y)).advance

/-- `8xy4` (R187): the sum is formed before the flag write. -/
def execAddVV (x y : Nibble) (s : State) : Host.Outcome State Fault Refusal :=
  let sum := exactSum (s.reg x) (s.reg y)
  .next ((s.setFlag (carryFlag sum)).setReg x (narrowSum sum)).advance

/-- `8xy5` (R188): the difference reads `V[x]` and `V[y]` after the flag write. -/
def execSub (x y : Nibble) (s : State) : Host.Outcome State Fault Refusal :=
  let t := s.setFlag (greaterFlag (s.reg x) (s.reg y))
  .next (t.setReg x (t.reg x - t.reg y)).advance

/-- `8xy6` (R189): `y` is not used. -/
def execShr (x _y : Nibble) (s : State) : Host.Outcome State Fault Refusal :=
  let t := s.setFlag (lowBitFlag (s.reg x))
  .next (t.setReg x (t.reg x >>> 1)).advance

/-- `8xy7` (R190): the difference reads `V[x]` and `V[y]` after the flag write. -/
def execSubn (x y : Nibble) (s : State) : Host.Outcome State Fault Refusal :=
  let t := s.setFlag (greaterFlag (s.reg y) (s.reg x))
  .next (t.setReg x (t.reg y - t.reg x)).advance

/-- `8xyE` (R191): `y` is not used. -/
def execShl (x _y : Nibble) (s : State) : Host.Outcome State Fault Refusal :=
  let t := s.setFlag (highBitFlag (s.reg x))
  .next (t.setReg x (t.reg x <<< 1)).advance

/-- Takes the next random draw (R192). -/
def State.takeDraw (s : State) : State := { s with draws := s.draws + 1 }

/-- `Cxkk` (R192): the draw is the free value numbered by the draws taken so far. -/
def execRnd (x : Nibble) (kk : Byte) (s : State) : Host.Outcome State Fault Refusal :=
  .next (s.takeDraw.setReg x (Config.rand s.draws &&& kk)).advance

end Sys2Proof.Machine
end

