-- ==== Sys2Proof/Machine/Display.lean ====
section
/-! DEFINITION. The display family (40_display.md): `00E0` and `Dxyn`. -/

namespace Sys2Proof.Machine

/-- The pixels and the collision seen so far while a sprite is drawn. -/
abbrev Canvas := Framebuffer × Bool

/-- Under a sprite bit: a set bit XORs the pixel, and a set pixel about to be turned off is a hit; a
clear bit leaves the pixel alone (R132–R134). -/
def drawPixel (cx cy : Nat) (bit : Bool) (c : Canvas) : Canvas :=
  if bit then (flipPixel c.1 cx cy, c.2 || pixelAt c.1 cx cy) else c

/-- One sprite row of 8 columns with its left end at column `cx` of row `cy` (R133). -/
def drawRow (cx cy : Nat) (b : Byte) (c : Canvas) : Canvas :=
  (List.range 8).foldl (fun a k => drawPixel (cx + k) cy (spriteBit b k) a) c

/-- The first `n` rows of the sprite at `I`, top row first (R133). -/
def State.drawSprite (s : State) (cx cy n : Nat) : Canvas :=
  (List.range n).foldl (fun a r => drawRow cx (cy + r) (s.read (s.indexAddr r)) a) (s.fb, false)

/-- `00E0` (R131). -/
def execCls (s : State) : Host.Outcome State Fault Refusal :=
  .next (s.setFb blankFb).advance

/-- `Dxyn` (R133): both coordinates are read before any write, `V[15]` is written last. -/
def execDrw (x y n : Nibble) (s : State) : Host.Outcome State Fault Refusal :=
  let c := s.drawSprite (s.reg x).toNat (s.reg y).toNat n.toNat
  .next ((s.setFb c.1).setFlag (b2u c.2)).advance

end Sys2Proof.Machine
end

