-- ==== Sys2Proof/Machine/Flow.lean ====
section
/-! DEFINITION. The control-flow family (41_flow.md): return, jump, call, the four register skips and
the indexed jump. -/

namespace Sys2Proof.Machine

/-- `00EE` (R150). -/
def execRet (s : State) : Host.Outcome State Fault Refusal := .next (s.popJump (encode .ret))

/-- `1nnn` (R151): no automatic advance. -/
def execJp (nnn : Addr) (s : State) : Host.Outcome State Fault Refusal := .next (s.jump (zext16 nnn))

/-- `2nnn` (R152): the pushed address is `pc + 2`, all 16 bits. -/
def execCall (nnn : Addr) (s : State) : Host.Outcome State Fault Refusal :=
  .next (s.pushJump (s.pc + 2) (zext16 nnn) (encode (.call nnn)))

/-- `3xkk` (R153). -/
def execSeVB (x : Nibble) (kk : Byte) (s : State) : Host.Outcome State Fault Refusal :=
  .next (s.skipIf (s.reg x == kk))

/-- `4xkk` (R154). -/
def execSneVB (x : Nibble) (kk : Byte) (s : State) : Host.Outcome State Fault Refusal :=
  .next (s.skipIf (s.reg x != kk))

/-- `5xy0` (R155). -/
def execSeVV (x y : Nibble) (s : State) : Host.Outcome State Fault Refusal :=
  .next (s.skipIf (s.reg x == s.reg y))

/-- `9xy0` (R156). -/
def execSneVV (x y : Nibble) (s : State) : Host.Outcome State Fault Refusal :=
  .next (s.skipIf (s.reg x != s.reg y))

/-- `Bnnn` (R157): always `V[0]`, the sum kept in 16 bits. -/
def execJpV0 (nnn : Addr) (s : State) : Host.Outcome State Fault Refusal :=
  .next (s.jump (zext16 nnn + zextByte (s.reg 0)))

end Sys2Proof.Machine
end

