-- ==== Sys2Proof/Machine/IndexMemory.lean ====
section
/-! DEFINITION. The index and memory family (43_index_memory.md). No access changes `I` (R226). -/

namespace Sys2Proof.Machine

/-- Writes bytes at `I + k`, `I + k + 1`, …, in ascending order (R63). -/
def State.storeFrom (s : State) (k : Nat) : List Byte → State
  | [] => s
  | v :: vs => (s.write (s.indexAddr k) v).storeFrom (k + 1) vs

/-- Reads the bytes at `I + i` into `V[i]`, for each number of the list in order (R225). -/
def State.loadRegs (s : State) : List Nat → State
  | [] => s
  | i :: is => (s.setReg (rangeReg i) (s.read (s.indexAddr i))).loadRegs is

/-- The decimal digits of a byte: hundreds, tens, ones (R223). -/
def decimalDigits (v : Byte) : List Byte :=
  [BitVec.ofNat 8 (v.toNat / 100), BitVec.ofNat 8 (v.toNat / 10 % 10), BitVec.ofNat 8 (v.toNat % 10)]

/-- The values of `V[0..x]`, in order (R224). -/
def State.rangeValues (s : State) (x : Nibble) : List Byte :=
  (registerRange x).map fun i => s.reg (rangeReg i)

/-- `Annn` (R220). -/
def execLdI (nnn : Addr) (s : State) : Host.Outcome State Fault Refusal :=
  .next (s.setIndex (zext16 nnn)).advance

/-- `Fx1E` (R221): the sum wraps modulo 65536, the flag tests the new `I`. -/
def execAddIV (x : Nibble) (s : State) : Host.Outcome State Fault Refusal :=
  let t := s.setIndex (s.index + zextByte (s.reg x))
  .next (t.setFlag (indexFlag t.index)).advance

/-- `Fx29` (R222): the full product, no masking. -/
def execLdFV (x : Nibble) (s : State) : Host.Outcome State Fault Refusal :=
  .next (s.setIndex (BitVec.ofNat 16 ((s.reg x).toNat * 5))).advance

/-- `Fx33` (R223). -/
def execLdBV (x : Nibble) (s : State) : Host.Outcome State Fault Refusal :=
  .next (s.storeFrom 0 (decimalDigits (s.reg x))).advance

/-- `Fx55` (R224). -/
def execLdMemV (x : Nibble) (s : State) : Host.Outcome State Fault Refusal :=
  .next (s.storeFrom 0 (s.rangeValues x)).advance

/-- `Fx65` (R225). -/
def execLdVMem (x : Nibble) (s : State) : Host.Outcome State Fault Refusal :=
  .next (s.loadRegs (registerRange x)).advance

end Sys2Proof.Machine
end

