-- ==== Sys2Proof/Machine/KeysTimers.lean ====
section
/-! DEFINITION. The keypad and timer family (44_keys_timers.md). The countdown itself is the end of the
cycle (Ops.lean). -/

namespace Sys2Proof.Machine

/-- `Ex9E` (R251). -/
def execSkp (x : Nibble) (s : State) : Host.Outcome State Fault Refusal :=
  .next (s.skipIf (s.keyOf x))

/-- `ExA1` (R252). -/
def execSknp (x : Nibble) (s : State) : Host.Outcome State Fault Refusal :=
  .next (s.skipIf (!s.keyOf x))

/-- `Fx07` (R253). -/
def execLdVDT (x : Nibble) (s : State) : Host.Outcome State Fault Refusal :=
  .next (s.setReg x s.dt).advance

/-- The key wait of mode `block` (R254): the lowest pressed key, or the same `pc` again. -/
def State.waitKey (s : State) (x : Nibble) : State :=
  match s.lowestKey with
  | some k => (s.setReg x (BitVec.ofNat 8 k)).advance
  | none => s

/-- `Fx0A` (R254), by `KEYWAIT_MODE`. -/
def State.keyWait (s : State) (x : Nibble) : State :=
  match s.config.keywaitMode with
  | .noop => s.advance
  | .block => s.waitKey x

/-- `Fx0A` (R254). -/
def execLdVK (x : Nibble) (s : State) : Host.Outcome State Fault Refusal := .next (s.keyWait x)

/-- `Fx15` (R255). -/
def execLdDTV (x : Nibble) (s : State) : Host.Outcome State Fault Refusal :=
  .next (s.setDelay (s.reg x)).advance

/-- `Fx18` (R256). -/
def execLdSTV (x : Nibble) (s : State) : Host.Outcome State Fault Refusal :=
  .next (s.setSound (s.reg x)).advance

end Sys2Proof.Machine
end

