-- ==== Sys2Proof/Machine/Step.lean ====
section
/-! DEFINITION. One step: the cycle of 30_encoding.md R100. -/

namespace Sys2Proof.Machine

/-- `Step` (R100): refused before the first reset (R326); a faulted core stays as it is (R286); else
fetch, decode, execute and the end of the cycle. -/
def step (s : State) : Host.Outcome State Fault Refusal :=
  if s.ready then
    match s.fault with
    | some r => .next (s.stayFaulted r)
    | none =>
      match decode s.fetchWord with
      | none => .next (s.decodeFailure s.fetchWord)
      | some i =>
        match exec i s with
        | .next t => .next t.endCycle
        | .fault f => .fault f
        | .refused r => .refused r
  else .refused .beforeReset

/-- `s` with the table's word laid at `pc`, in a core that is reset and not faulted, so that the next
step runs it (log entry 6). -/
def State.withFetchWord (s : State) (nbits w : Nat) : State := s.placeWord (tableWord nbits w)

end Sys2Proof.Machine
end

