-- ==== Sys2Proof/Machine/Transactions.lean ====
section
/-! DEFINITION. The host's transactions besides Step (60_exceptions.md R300; 70_reset_and_hazards.md
R320–R326): each is called between two steps (20_memory.md R71). -/

namespace Sys2Proof.Machine

/-- The core as it is created (R323), before any reset: memory is the power-on memory in every cell,
and the other fields are free values, of which the framebuffer view alone shows anything (log entry 5).
That nothing is latched and no output given yet is the model's choice: a step and SetKey are refused
then (R326), and a reset writes both. -/
def State.powerOn : State where
  regs := Config.powerOnFields.regs
  index := Config.powerOnFields.index
  pc := Config.powerOnFields.pc
  stack := Config.powerOnFields.stack
  sp := Config.powerOnFields.sp
  keypad := Config.powerOnFields.keypad
  dt := Config.powerOnFields.dt
  st := Config.powerOnFields.st
  fb := Config.powerOnFields.fb
  memory := []
  fault := none
  config := Config.default
  result := none
  started := false
  draws := 0

/-- `Initialize` (R320): every field of the record but memory above the glyph table. Taking the cells
below `0x050` off the list makes them read as the glyph table in a core that is reset. The parameters stay, and so does the
count of draws: a reset does not repeat them (log entry 2). -/
def State.initializeCore (s : State) : State where
  regs := Vector.replicate 16 0
  index := 0
  pc := 0x200
  stack := Vector.replicate 16 0
  sp := 0
  keypad := Vector.replicate 16 false
  dt := 0
  st := 0
  fb := blankFb
  memory := s.memory.filter fun c => decide (80 ≤ c.1)
  fault := none
  config := s.config
  result := none
  started := true
  draws := s.draws

/-- The size of the program image, `0x200`–`0xFFF` (R6). -/
def imageSize : Nat := 3584

/-- An image padded with zeros to its full size (R321). -/
def paddedImage (bytes : List Byte) : List Byte :=
  bytes ++ List.replicate (imageSize - bytes.length) 0

/-- The cells from an address on, one a byte. -/
def cellsFrom (a : Nat) : List Byte → List Host.Cell
  | [] => []
  | v :: vs => (a, v) :: cellsFrom (a + 1) vs

/-- The image copied to `0x200`–`0xFFF` (R321): every cell there is listed anew. -/
def State.copyImage (s : State) (bytes : List Byte) : State :=
  { s with
    memory := (s.memory.filter fun c => decide (c.1 < 0x200)) ++ cellsFrom 0x200 (paddedImage bytes) }

/-- `LoadProgram(bytes)` (R321): the copy, then the whole reset; an image too long is refused and
changes nothing (R322). -/
def loadProgram (bytes : List Byte) (s : State) : Host.Outcome State Fault Refusal :=
  if bytes.length > imageSize then .refused .loadTooLong
  else .next (s.copyImage bytes).initializeCore

/-- `SetKey(k, pressed)` (R295): keys above 15 are ignored; refused before the first reset (R326). -/
def setKey (k : Nat) (pressed : Bool) (s : State) : Host.Outcome State Fault Refusal :=
  if s.ready then
    if h : k < 16 then .next { s with keypad := s.keypad.set k pressed h } else .next s
  else .refused .beforeReset

/-- The read-only view of the framebuffer (R296): 2048 flags, row-major. DESIGN CHOICE, log entry 5:
before the first reset the view is answered and not refused, no rule refusing it; it then shows the
free framebuffer of `State.powerOn`, since R323 gives it no value. -/
def framebufferView (s : State) : List Bool := s.fb.toList.flatMap Vector.toList

/-- The transactions that change the state (R300). -/
inductive Transaction where
  | reset
  | load (bytes : List Byte)
  | key (k : Nat) (pressed : Bool)
  | cycle
  deriving DecidableEq, Repr

/-- What one transaction does (R300). -/
def transact (t : Transaction) (s : State) : Host.Outcome State Fault Refusal :=
  match t with
  | .reset => .next s.initializeCore
  | .load bytes => loadProgram bytes s
  | .key k pressed => setKey k pressed s
  | .cycle => step s

end Sys2Proof.Machine
end

