-- ==== Sys2Proof/Safety.lean ====
section
/-! DEFINITION. The terms claims use: what a run's states are (70_reset_and_hazards.md R333), the
frames, and the invariant of the machine. -/

namespace Sys2Proof.Machine

/-! ### The end of a run (R333) -/

/-- A core that is reset and has raised no fault: its next step runs an instruction or faults. -/
def State.Live (s : State) : Prop := s.started = true ∧ s.fault = none

/-- *Faulted* (R333): the latch holds a record. -/
def State.Faulted (s : State) : Prop := ∃ r, s.fault = some r

/-- *Parked* (R333): live, and `pc` holds the address of a jump to that address. -/
def State.Parked (s : State) : Prop :=
  s.Live ∧ ∃ nnn, decode s.fetchWord = some (.jp nnn) ∧ zext16 nnn = s.pc

/-- A safe run: every state of it so far is live. -/
def SafeRun (run : List State) : Prop := ∀ s ∈ run, s.Live

/-! ### Frames: `t` is `s` but for the fields named, and those of memory said byte by byte -/

/-- Every byte of memory reads as before. -/
def SameBytes (s t : State) : Prop := ∀ a, t.read a = s.read a

/-- Every byte outside the first `n` cells from address `a` on (each reduced modulo 4096) reads as
before. -/
def SameBytesOutside (s t : State) (a n : Nat) : Prop :=
  ∀ b, (∀ k, k < n → cellIndex b ≠ cellIndex (a + k)) → t.read b = s.read b

/-- Every register but the listed ones is as before. -/
def SameRegsBut (s t : State) (xs : List Nibble) : Prop := ∀ r, r ∉ xs → t.reg r = s.reg r

/-- Only the program counter may differ. -/
def OnlyPc (s t : State) : Prop := t = { s with pc := t.pc } ∧ SameBytes s t

/-- Only registers and the program counter may differ. -/
def OnlyRegsPc (s t : State) : Prop := t = { s with regs := t.regs, pc := t.pc } ∧ SameBytes s t

/-- Only `I`, registers and the program counter may differ. -/
def OnlyIndexRegsPc (s t : State) : Prop :=
  t = { s with index := t.index, regs := t.regs, pc := t.pc } ∧ SameBytes s t

/-- Only the call stack, its pointer and the program counter may differ. -/
def OnlyStackPc (s t : State) : Prop :=
  t = { s with stack := t.stack, sp := t.sp, pc := t.pc } ∧ SameBytes s t

/-- Only the framebuffer, registers and the program counter may differ. -/
def OnlyFbRegsPc (s t : State) : Prop :=
  t = { s with fb := t.fb, regs := t.regs, pc := t.pc } ∧ SameBytes s t

/-- Only memory and the program counter may differ. -/
def OnlyMemoryPc (s t : State) : Prop := t = { s with memory := t.memory, pc := t.pc }

/-- Only the fault latch may differ. -/
def OnlyFault (s t : State) : Prop := t = { s with fault := t.fault } ∧ SameBytes s t

/-- A sprite of `n` rows at `I`, drawn with its top left at `(cx, cy)`, has a set bit over the pixel at
`(px, py)` (R130, R132, R133). -/
def spriteCovers (s : State) (cx cy n px py : Nat) : Bool :=
  (List.range n).any fun r => (List.range 8).any fun k =>
    spriteBit (s.read (s.indexAddr r)) k && (cx + k) % 64 == px % 64 && (cy + r) % 32 == py % 32

/-! ### Who reads and writes what (10_state.md R22, R39) -/

/-- The registers an instruction may write: its destination, the flag register of the instructions of
R22, and `V[0..x]` of `Fx65`. -/
def writesReg (i : Instr) (r : Nibble) : Bool :=
  match i with
  | .ldVB x _ | .addVB x _ | .ldVV x _ | .orVV x _ | .andVV x _ | .xorVV x _ | .rnd x _ | .ldVDT x
  | .ldVK x => r == x
  | .addVV x _ | .sub x _ | .shr x _ | .subn x _ | .shl x _ => r == x || r == 15
  | .drw _ _ _ | .addIV _ => r == 15
  | .ldVMem x => decide (r.toNat ≤ x.toNat)
  | .cls | .ret | .jp _ | .call _ | .seVB _ _ | .sneVB _ _ | .seVV _ _ | .sneVV _ _ | .ldI _
  | .jpV0 _ | .skp _ | .sknp _ | .ldDTV _ | .ldSTV _ | .ldFV _ | .ldBV _ | .ldMemV _ => false

/-- The instructions that write `I` (R24). -/
def writesIndex : Instr → Bool
  | .ldI _ | .addIV _ | .ldFV _ => true
  | _ => false

/-- The instructions that write memory (R63). -/
def writesMemory : Instr → Bool
  | .ldBV _ | .ldMemV _ => true
  | _ => false

/-- The instructions that write the framebuffer (R32). -/
def writesFb : Instr → Bool
  | .cls | .drw _ _ _ => true
  | _ => false

/-- The instruction that writes the call stack (R26). -/
def writesStack : Instr → Bool
  | .call _ => true
  | _ => false

/-- The instructions that write `sp`, the only ones that can fault (R27, R285). -/
def writesSp : Instr → Bool
  | .ret | .call _ => true
  | _ => false

/-- The instruction that writes the delay timer (R30). -/
def writesDelay : Instr → Bool
  | .ldDTV _ => true
  | _ => false

/-- The instruction that writes the sound timer (R31). -/
def writesSound : Instr → Bool
  | .ldSTV _ => true
  | _ => false

/-- The instruction that takes a random draw (R192). -/
def takesDraw : Instr → Bool
  | .rnd _ _ => true
  | _ => false

/-- The instructions that read the keypad (R29). -/
def readsKeypad : Instr → Bool
  | .skp _ | .sknp _ | .ldVK _ => true
  | _ => false

/-! ### The invariant -/

/-- What a latched record says of the state that holds it: the fault is precise, so `pc` and the word
there are still those of the faulting step (R281), and the cause fits them (R282–R284). -/
def FaultRecord.Precise (r : FaultRecord) (s : State) : Prop :=
  r.pc = s.pc ∧ r.word = s.fetchWord ∧
    match r.cause with
    | .decodeFailure => decode r.word = none
    | .stackOverflow => s.sp.val = 16 ∧ ∃ nnn, decode r.word = some (.call nnn)
    | .stackUnderflow => s.sp.val = 0 ∧ decode r.word = some .ret

/-- The invariant: memory is in canonical form, a latched record is precise, and the step's output
says Faulted exactly while the latch holds the record (R286, R301). -/
structure Inv (s : State) : Prop where
  memory : s.memoryWf = true
  precise : ∀ r, s.fault = some r → r.Precise s
  output : ∀ r, s.fault = some r ↔ s.result = some (.faulted r)

end Sys2Proof.Machine
end

