-- ==== Sys2Proof/Certificates/Slice0/Obligations.lean ====
section
/-! DEFINITION. The statements for the provers. Each docstring names the rule it follows; a clause that
rests on a decision of the spec's own (92_eei_decisions.md) or on a log entry says so. -/

open Sys2Proof Sys2Proof.Machine

/-! ### The cycle -/

/-- R100: a live step whose fetched word decodes runs exactly the instruction, and then ends the cycle:
a step that raised nothing counts both timers and gives out the tone, a step that raised a fault gives
out the record; nothing else is added. The latch and the output are decisions D2 and D21, log entry 4. -/
def Obligations.StepRunsDecodedInstruction : Prop :=
  ∀ (s t : State) (i : Instr), s.Live → decode s.fetchWord = some i → exec i s = .next t →
    ∃ u, step s = .next u ∧ u = { t with dt := u.dt, st := u.st, result := u.result } ∧
      (t.fault = none → u.dt = (if t.dt = 0 then 0 else t.dt - 1) ∧
        u.st = (if t.st = 0 then 0 else t.st - 1) ∧ u.result = some (.ok (decide (t.st = 1)))) ∧
      (∀ r, t.fault = some r → u.dt = t.dt ∧ u.st = t.st ∧ u.result = some (.faulted r))

/-- R291, R292: at the end of a step that does not fault each timer is one less, and 0 stays 0. -/
def Obligations.TimersCountDownEachStep : Prop :=
  ∀ (s t : State) (i : Instr), s.Live → decode s.fetchWord = some i → exec i s = .next t →
    t.fault = none →
    ∃ u, step s = .next u ∧ u.dt.toNat = t.dt.toNat - 1 ∧ u.st.toNat = t.st.toNat - 1

/-- R293 with decision D21 (log entry 8): the tone fires exactly when the countdown takes the sound
timer from 1 to 0, so `Fx18` fires it in its own step exactly for a written 1, and a written 0 stops a
count without it. -/
def Obligations.SoundTimerWriteTone : Prop :=
  ∀ (s : State) (x : Nibble), s.Live → decode s.fetchWord = some (.ldSTV x) →
    ∃ u, step s = .next u ∧ u.result = some (.ok (decide (s.reg x = 1))) ∧
      u.st.toNat = (s.reg x).toNat - 1

/-- R97, R281, R282 with decisions D2, D15: an illegal word raises DecodeFailure; the step writes the
latch and gives out the record, nothing else. -/
def Obligations.IllegalWordLatchesDecodeFailure : Prop :=
  ∀ s : State, s.Live → decode s.fetchWord = none →
    ∃ u, step s = .next u ∧ u.fault = some ⟨.decodeFailure, s.pc, s.fetchWord⟩ ∧
      u.result = some (.faulted ⟨.decodeFailure, s.pc, s.fetchWord⟩) ∧
      u = { s with fault := u.fault, result := u.result } ∧ SameBytes s u

/-- R286 with decision D2: under the invariant a step of a faulted core changes nothing at all. -/
def Obligations.FaultedCoreStaysUnchanged : Prop :=
  ∀ (s : State) (r : FaultRecord), s.started = true → Inv s → s.fault = some r → step s = .next s

/-- R100, R301, R326 with decision D20: before the first reset a step and SetKey are refused; from then
on a step always answers a next state and the core stays reset. -/
def Obligations.StepRunsExactlyAfterReset : Prop :=
  ∀ (s : State) (k : Nat) (p : Bool),
    (s.started = false → step s = .refused .beforeReset ∧ setKey k p s = .refused .beforeReset) ∧
    (s.started = true → ∃ t, step s = .next t ∧ t.started = true)

/-- The aid `withFetchWord` (log entry 6): the next step fetches the table's word, in a live core. -/
def Obligations.PlacedWordIsFetched : Prop :=
  ∀ (s : State) (w : Nat) (i : Instr), decodeTableWord 16 w = some i →
    (s.withFetchWord 16 w).Live ∧ decode (s.withFetchWord 16 w).fetchWord = some i

/-! ### Control flow -/

/-- R150: a return with a stack that is not empty pops the address into `pc`; the entry stays. -/
def Obligations.ReturnPopsAddress : Prop :=
  ∀ (s : State) (j : Fin 16), s.sp.val = j.val + 1 →
    ∃ t, exec .ret s = .next t ∧ t.sp.val = j.val ∧ t.pc = s.stack[j] ∧ t.stack = s.stack ∧
      OnlyStackPc s t

/-- R284 with decision D2: a return with an empty stack raises StackUnderflow and writes only the
latch. -/
def Obligations.EmptyReturnUnderflows : Prop :=
  ∀ s : State, s.sp.val = 0 →
    ∃ t, exec .ret s = .next t ∧ t.fault = some ⟨.stackUnderflow, s.pc, 0x00EE⟩ ∧
      OnlyFault s t

/-- R152 (the width of the pushed address is decision D5): a call with room pushes `pc + 2` at
`stack[sp]` and goes to `nnn`. -/
def Obligations.CallPushesReturnAddress : Prop :=
  ∀ (s : State) (nnn : Addr) (j : Fin 16), s.sp.val = j.val →
    ∃ t, exec (.call nnn) s = .next t ∧ t.sp.val = j.val + 1 ∧ t.stack[j] = s.pc + 2 ∧
      (∀ k : Fin 16, k ≠ j → t.stack[k] = s.stack[k]) ∧ t.pc.toNat = nnn.toNat ∧ OnlyStackPc s t

/-- R283 with decision D2: a call with a full stack raises StackOverflow, recording its own word, and
writes only the latch. -/
def Obligations.FullCallOverflows : Prop :=
  ∀ (s : State) (nnn : Addr), s.sp.val = 16 →
    ∃ t r, exec (.call nnn) s = .next t ∧ t.fault = some r ∧ r.cause = .stackOverflow ∧
      r.pc = s.pc ∧ r.word.toNat = 0x2000 + nnn.toNat ∧ OnlyFault s t

/-- R150, R152: a return right after a call comes back to the instruction after the call, with the
stack pointer as it was. -/
def Obligations.ReturnAfterCallComesBack : Prop :=
  ∀ (s : State) (nnn : Addr), s.sp.val < 16 →
    ∃ t u, exec (.call nnn) s = .next t ∧ exec .ret t = .next u ∧ u.pc = s.pc + 2 ∧ u.sp = s.sp

/-- R151: `1nnn` sets `pc` to exactly `nnn`, with no automatic advance. -/
def Obligations.JumpSetsPcExactly : Prop :=
  ∀ (s : State) (nnn : Addr), decode (wordA 0x1 nnn) = some (.jp nnn) ∧
    ∃ t, exec (.jp nnn) s = .next t ∧ t.pc.toNat = nnn.toNat ∧ OnlyPc s t

/-- R157 with decision D5: `Bnnn` goes to `nnn + V[0]`, kept in 16 bits unreduced. -/
def Obligations.IndexedJumpAddsV0 : Prop :=
  ∀ (s : State) (nnn : Addr),
    ∃ t, exec (.jpV0 nnn) s = .next t ∧ t.pc.toNat = nnn.toNat + (s.reg 0).toNat ∧ OnlyPc s t

/-- R153, R154: the skips on an immediate; they are complements. -/
def Obligations.ImmediateSkips : Prop :=
  ∀ (s : State) (x : Nibble) (kk : Byte),
    decode (wordXKK 0x3 x kk) = some (.seVB x kk) ∧ decode (wordXKK 0x4 x kk) = some (.sneVB x kk) ∧
    (∃ t, exec (.seVB x kk) s = .next t ∧ OnlyPc s t ∧
      t.pc = if s.reg x = kk then s.pc + 4 else s.pc + 2) ∧
    (∃ t, exec (.sneVB x kk) s = .next t ∧ OnlyPc s t ∧
      t.pc = if s.reg x ≠ kk then s.pc + 4 else s.pc + 2)

/-- R155, R156 (that `n ≠ 0` is illegal is decision D15): the skips on two registers. -/
def Obligations.RegisterSkips : Prop :=
  ∀ (s : State) (x y n : Nibble),
    decode (wordXYN 0x5 x y n) = (if n = 0 then some (.seVV x y) else none) ∧
    decode (wordXYN 0x9 x y n) = (if n = 0 then some (.sneVV x y) else none) ∧
    (∃ t, exec (.seVV x y) s = .next t ∧ OnlyPc s t ∧
      t.pc = if s.reg x = s.reg y then s.pc + 4 else s.pc + 2) ∧
    (∃ t, exec (.sneVV x y) s = .next t ∧ OnlyPc s t ∧
      t.pc = if s.reg x ≠ s.reg y then s.pc + 4 else s.pc + 2)

/-! ### ALU -/

/-- R181, R183: the loads of an immediate and of a register. -/
def Obligations.LoadImmediateAndCopy : Prop :=
  ∀ (s : State) (x y : Nibble) (kk : Byte),
    decode (wordXKK 0x6 x kk) = some (.ldVB x kk) ∧ decode (wordXYN 0x8 x y 0) = some (.ldVV x y) ∧
    (∃ t, exec (.ldVB x kk) s = .next t ∧ t.reg x = kk ∧ SameRegsBut s t [x] ∧
      t.pc = s.pc + 2 ∧ OnlyRegsPc s t) ∧
    (∃ t, exec (.ldVV x y) s = .next t ∧ t.reg x = s.reg y ∧ SameRegsBut s t [x] ∧
      t.pc = s.pc + 2 ∧ OnlyRegsPc s t)

/-- R182: `7xkk` adds modulo 256 and writes no flag. -/
def Obligations.AddImmediateWritesNoFlag : Prop :=
  ∀ (s : State) (x : Nibble) (kk : Byte), decode (wordXKK 0x7 x kk) = some (.addVB x kk) ∧
    ∃ t, exec (.addVB x kk) s = .next t ∧
      (t.reg x).toNat = ((s.reg x).toNat + kk.toNat) % 256 ∧ SameRegsBut s t [x] ∧
      t.pc = s.pc + 2 ∧ OnlyRegsPc s t

/-- R184, R185, R186: the bitwise operations, bit by bit; they write no flag. -/
def Obligations.BitwiseOperations : Prop :=
  ∀ (s : State) (x y : Nibble),
    decode (wordXYN 0x8 x y 1) = some (.orVV x y) ∧ decode (wordXYN 0x8 x y 2) = some (.andVV x y) ∧
    decode (wordXYN 0x8 x y 3) = some (.xorVV x y) ∧
    (∃ t, exec (.orVV x y) s = .next t ∧ SameRegsBut s t [x] ∧ t.pc = s.pc + 2 ∧ OnlyRegsPc s t ∧
      ∀ b, b < 8 → (t.reg x).getLsbD b = ((s.reg x).getLsbD b || (s.reg y).getLsbD b)) ∧
    (∃ t, exec (.andVV x y) s = .next t ∧ SameRegsBut s t [x] ∧ t.pc = s.pc + 2 ∧ OnlyRegsPc s t ∧
      ∀ b, b < 8 → (t.reg x).getLsbD b = ((s.reg x).getLsbD b && (s.reg y).getLsbD b)) ∧
    (∃ t, exec (.xorVV x y) s = .next t ∧ SameRegsBut s t [x] ∧ t.pc = s.pc + 2 ∧ OnlyRegsPc s t ∧
      ∀ b, b < 8 → (t.reg x).getLsbD b = ((s.reg x).getLsbD b ^^ (s.reg y).getLsbD b))

/-- R187, R193 with decision D7 for `x = 15` and `y = 15` (log entry 8): the sum is formed from the old
operands; the carry is written to `V[15]`, and overwritten when that is the destination. -/
def Obligations.AddSetsCarry : Prop :=
  ∀ (s : State) (x y : Nibble),
    ∃ t, exec (.addVV x y) s = .next t ∧
      (t.reg x).toNat = ((s.reg x).toNat + (s.reg y).toNat) % 256 ∧
      (x ≠ 15 → t.reg 15 = if (s.reg x).toNat + (s.reg y).toNat > 255 then 1 else 0) ∧
      SameRegsBut s t [x, 15] ∧ t.pc = s.pc + 2 ∧ OnlyRegsPc s t

/-- R188, R193 with decision D7 for `x = 15` or `y = 15` (log entry 8): the flag is strict `>`; the
difference reads `V[x]` and `V[y]` after the flag write. -/
def Obligations.SubtractAfterFlag : Prop :=
  ∀ (s : State) (x y : Nibble),
    ∃ t, exec (.sub x y) s = .next t ∧ ∃ f : Nat,
      f = (if (s.reg x).toNat > (s.reg y).toNat then 1 else 0) ∧
      (x ≠ 15 → (t.reg 15).toNat = f) ∧
      (x ≠ 15 → y ≠ 15 → (t.reg x).toNat = ((s.reg x).toNat + 256 - (s.reg y).toNat) % 256) ∧
      (x ≠ 15 → y = 15 → (t.reg x).toNat = ((s.reg x).toNat + 256 - f) % 256) ∧
      (x = 15 → y ≠ 15 → (t.reg x).toNat = (f + 256 - (s.reg y).toNat) % 256) ∧
      (x = 15 → y = 15 → t.reg x = 0) ∧
      SameRegsBut s t [x, 15] ∧ t.pc = s.pc + 2 ∧ OnlyRegsPc s t

/-- R190, R193 with decision D7 for `x = 15` or `y = 15` (log entry 8): as `8xy5` with the operands
exchanged. -/
def Obligations.SubtractReversedAfterFlag : Prop :=
  ∀ (s : State) (x y : Nibble),
    ∃ t, exec (.subn x y) s = .next t ∧ ∃ f : Nat,
      f = (if (s.reg y).toNat > (s.reg x).toNat then 1 else 0) ∧
      (x ≠ 15 → (t.reg 15).toNat = f) ∧
      (x ≠ 15 → y ≠ 15 → (t.reg x).toNat = ((s.reg y).toNat + 256 - (s.reg x).toNat) % 256) ∧
      (x ≠ 15 → y = 15 → (t.reg x).toNat = (f + 256 - (s.reg x).toNat) % 256) ∧
      (x = 15 → y ≠ 15 → (t.reg x).toNat = ((s.reg y).toNat + 256 - f) % 256) ∧
      (x = 15 → y = 15 → t.reg x = 0) ∧
      SameRegsBut s t [x, 15] ∧ t.pc = s.pc + 2 ∧ OnlyRegsPc s t

/-- R189, R191, R193 with decision D7 for `x = 15` (log entry 8): the shifts of `V[x]` by one, for
every `y`, which is not used; the flag is the bit shifted out. -/
def Obligations.ShiftsByOne : Prop :=
  ∀ (s : State) (x y : Nibble),
    (∃ t, exec (.shr x y) s = .next t ∧
      (x ≠ 15 → (t.reg 15).toNat = (s.reg x).toNat % 2 ∧ (t.reg x).toNat = (s.reg x).toNat / 2) ∧
      (x = 15 → t.reg x = 0) ∧ SameRegsBut s t [x, 15] ∧ t.pc = s.pc + 2 ∧ OnlyRegsPc s t) ∧
    (∃ t, exec (.shl x y) s = .next t ∧
      (x ≠ 15 → (t.reg 15).toNat = (s.reg x).toNat / 128 ∧
        (t.reg x).toNat = 2 * (s.reg x).toNat % 256) ∧
      (x = 15 → (t.reg x).toNat = 2 * ((s.reg x).toNat / 128)) ∧
      SameRegsBut s t [x, 15] ∧ t.pc = s.pc + 2 ∧ OnlyRegsPc s t)

/-- R192: `Cxkk` takes a fresh draw in 1..255 and masks it; the draw is a free value (log entry 2), so
this holds for every draw. -/
def Obligations.RandomByteMasked : Prop :=
  ∀ (s : State) (x : Nibble) (kk : Byte), decode (wordXKK 0xC x kk) = some (.rnd x kk) ∧
    ∃ t, exec (.rnd x kk) s = .next t ∧
      (∃ r : Byte, r = Config.rand s.draws ∧ 1 ≤ r.toNat ∧ t.reg x = r &&& kk) ∧
      (kk = 0xFF → t.reg x ≠ 0) ∧ (kk = 0 → t.reg x = 0) ∧ SameRegsBut s t [x] ∧
      t.draws = s.draws + 1 ∧ t.pc = s.pc + 2 ∧
      t = { s with regs := t.regs, pc := t.pc, draws := t.draws } ∧ SameBytes s t

/-! ### Display -/

/-- R131: `00E0` clears every pixel, whatever the framebuffer held, and changes nothing else. -/
def Obligations.ClearScreenClearsAll : Prop :=
  ∀ s : State, decode 0x00E0 = some .cls ∧
    ∃ t, exec .cls s = .next t ∧ (∀ px py, t.pixel px py = false) ∧ t.pc = s.pc + 2 ∧
      t = { s with fb := t.fb, pc := t.pc } ∧ SameBytes s t

/-- R130, R132, R133 with decisions D8 (bit 7 leftmost, from general knowledge), D9 and D4 (log
entry 8): `Dxyn` turns over exactly the pixels under the sprite's set bits, each coordinate wrapped;
the coordinates are those from before the flag write; `n = 0` draws nothing and clears the flag. -/
def Obligations.DrawTurnsOverCoveredPixels : Prop :=
  ∀ (s : State) (x y n : Nibble),
    ∃ t, exec (.drw x y n) s = .next t ∧
      (∀ px py, t.pixel px py =
        (s.pixel px py ^^ spriteCovers s (s.reg x).toNat (s.reg y).toNat n.toNat px py)) ∧
      (n = 0 → t.fb = s.fb ∧ t.reg 15 = 0) ∧
      SameRegsBut s t [15] ∧ t.pc = s.pc + 2 ∧ OnlyFbRegsPc s t

/-- R134: the flag is 1 if some pixel went from set to unset, else 0. -/
def Obligations.CollisionIsSetToUnset : Prop :=
  ∀ (s : State) (x y n : Nibble),
    ∃ t, exec (.drw x y n) s = .next t ∧ (t.reg 15 = 0 ∨ t.reg 15 = 1) ∧
      (t.reg 15 = 1 ↔ ∃ px py, px < 64 ∧ py < 32 ∧ s.pixel px py = true ∧ t.pixel px py = false)

/-- R133, S8 (bit order: decision D8): drawing the same sprite twice at one place restores the
framebuffer, and the second flag is 1 exactly when a covered pixel was unset before. -/
def Obligations.DrawTwiceRestores : Prop :=
  ∀ (s : State) (x y n : Nibble), x ≠ 15 → y ≠ 15 →
    ∃ t u, exec (.drw x y n) s = .next t ∧ exec (.drw x y n) t = .next u ∧ u.fb = s.fb ∧
      (u.reg 15 = 1 ↔ ∃ px py, px < 64 ∧ py < 32 ∧ s.pixel px py = false ∧
        spriteCovers s (s.reg x).toNat (s.reg y).toNat n.toNat px py = true)

/-! ### Index and memory -/

/-- R220: `Annn` loads the zero-extended address. -/
def Obligations.LoadIndexZeroExtends : Prop :=
  ∀ (s : State) (nnn : Addr), decode (wordA 0xA nnn) = some (.ldI nnn) ∧
    ∃ t, exec (.ldI nnn) s = .next t ∧ t.index.toNat = nnn.toNat ∧ t.pc = s.pc + 2 ∧
      t = { s with index := t.index, pc := t.pc } ∧ SameBytes s t

/-- R221 with decision D27 for the wrap: `Fx1E` adds modulo 65536 and sets the flag by the new `I`
above `0x0F00`; with `x = 15` the addend is the old `V[15]`. -/
def Obligations.AddToIndexFlagsHighRegion : Prop :=
  ∀ (s : State) (x : Nibble),
    ∃ t, exec (.addIV x) s = .next t ∧
      t.index.toNat = (s.index.toNat + (s.reg x).toNat) % 65536 ∧
      (t.reg 15 = if t.index.toNat > 0x0F00 then 1 else 0) ∧ SameRegsBut s t [15] ∧
      t.pc = s.pc + 2 ∧ OnlyIndexRegsPc s t

/-- R222 with decision D13: `Fx29` sets `I` to the full product `V[x] * 5`. -/
def Obligations.GlyphAddressIsFiveTimes : Prop :=
  ∀ (s : State) (x : Nibble),
    ∃ t, exec (.ldFV x) s = .next t ∧ t.index.toNat = (s.reg x).toNat * 5 ∧ t.pc = s.pc + 2 ∧
      t = { s with index := t.index, pc := t.pc } ∧ SameBytes s t

/-- R223 with decision D4 for the wrap: `Fx33` stores the hundreds, tens and ones of `V[x]` at `I`,
`I + 1`, `I + 2`, and no other byte changes. -/
def Obligations.DecimalDigitsStored : Prop :=
  ∀ (s : State) (x : Nibble),
    ∃ t, exec (.ldBV x) s = .next t ∧
      (t.read s.index.toNat).toNat = (s.reg x).toNat / 100 ∧
      (t.read (s.index.toNat + 1)).toNat = (s.reg x).toNat / 10 % 10 ∧
      (t.read (s.index.toNat + 2)).toNat = (s.reg x).toNat % 10 ∧
      SameBytesOutside s t s.index.toNat 3 ∧ t.pc = s.pc + 2 ∧ OnlyMemoryPc s t

/-- R224 with decisions D4 and D12: `Fx55` stores `V[0]`..`V[x]` from `I` on; `I` and every other byte
are unchanged. -/
def Obligations.RegisterRangeStored : Prop :=
  ∀ (s : State) (x : Nibble),
    ∃ t, exec (.ldMemV x) s = .next t ∧
      (∀ r : Nibble, r.toNat ≤ x.toNat → t.read (s.index.toNat + r.toNat) = s.reg r) ∧
      SameBytesOutside s t s.index.toNat (x.toNat + 1) ∧ t.pc = s.pc + 2 ∧ OnlyMemoryPc s t

/-- R225 with decisions D4 and D12: `Fx65` loads `V[0]`..`V[x]` from `I` on; `I`, memory and the other
registers are unchanged. -/
def Obligations.RegisterRangeLoaded : Prop :=
  ∀ (s : State) (x : Nibble),
    ∃ t, exec (.ldVMem x) s = .next t ∧
      (∀ r : Nibble, t.reg r =
        if r.toNat ≤ x.toNat then s.read (s.index.toNat + r.toNat) else s.reg r) ∧
      t.pc = s.pc + 2 ∧ OnlyRegsPc s t

/-- R64, R73, R329: a store of `V[0]` and `V[1]` over the next instruction is what the next fetch
reads, big-endian. -/
def Obligations.StoredWordIsFetchedNext : Prop :=
  ∀ (s : State) (x : Nibble), 1 ≤ x.toNat → s.index = s.pc + 2 →
    ∃ t, exec (.ldMemV x) s = .next t ∧
      t.fetchWord.toNat = (s.reg 0).toNat * 256 + (s.reg 1).toNat

/-- R61 with decision D4, R66: a read gives the byte last written to its cell, a write changes only
its cell, and addresses are reduced modulo 4096. -/
def Obligations.ReadAfterWrite : Prop :=
  ∀ (s : State) (a b : Nat) (v : Byte),
    (s.write a v).read b = (if a % 4096 = b % 4096 then v else s.read b) ∧
    s.read (a + 4096) = s.read a

/-- R62 (the reduction is R61, decision D4): the fetched word is the byte at `pc` as bits 15..8 and
the byte at `pc + 1` as bits 7..0, and at the top of memory the low byte is `memory[0x000]`. -/
def Obligations.FetchIsBigEndian : Prop :=
  ∀ s : State,
    s.fetchWord.toNat = (s.read (s.pc.toNat % 4096)).toNat * 256 +
      (s.read ((s.pc.toNat + 1) % 4096)).toNat ∧
    (s.pc.toNat % 4096 = 0xFFF →
      s.fetchWord.toNat = (s.read 0xFFF).toNat * 256 + (s.read 0x000).toNat)

/-! ### Keys and timers -/

/-- R250, R251, R252 with decision D10 for the low nibble: the keypad skips; they are complements. -/
def Obligations.KeypadSkips : Prop :=
  ∀ (s : State) (x : Nibble),
    (∃ t, exec (.skp x) s = .next t ∧ OnlyPc s t ∧
      t.pc = if s.keyDown ((s.reg x).toNat % 16) = true then s.pc + 4 else s.pc + 2) ∧
    (∃ t, exec (.sknp x) s = .next t ∧ OnlyPc s t ∧
      t.pc = if s.keyDown ((s.reg x).toNat % 16) = false then s.pc + 4 else s.pc + 2)

/-- R253: `Fx07` reads the delay timer as it stands before the step's countdown, which then runs. -/
def Obligations.ReadDelayBeforeCountdown : Prop :=
  ∀ (s : State) (x : Nibble), decode (wordXKK 0xF x 0x07) = some (.ldVDT x) ∧
    (∃ t, exec (.ldVDT x) s = .next t ∧ t.reg x = s.dt ∧ SameRegsBut s t [x] ∧
      t.pc = s.pc + 2 ∧ OnlyRegsPc s t) ∧
    (s.Live → decode s.fetchWord = some (.ldVDT x) →
      ∃ u, step s = .next u ∧ u.reg x = s.dt ∧ u.dt.toNat = s.dt.toNat - 1)

/-- R255, R256, R328: the timer writes, and that the same step's countdown already counts the written
value once. -/
def Obligations.TimerWritesCountOnce : Prop :=
  ∀ (s : State) (x : Nibble),
    (∃ t, exec (.ldDTV x) s = .next t ∧ t.dt = s.reg x ∧ t.pc = s.pc + 2 ∧
      t = { s with dt := t.dt, pc := t.pc } ∧ SameBytes s t) ∧
    (∃ t, exec (.ldSTV x) s = .next t ∧ t.st = s.reg x ∧ t.pc = s.pc + 2 ∧
      t = { s with st := t.st, pc := t.pc } ∧ SameBytes s t) ∧
    (s.Live → decode s.fetchWord = some (.ldDTV x) →
      ∃ u, step s = .next u ∧ u.dt.toNat = (s.reg x).toNat - 1)

/-- R254 (which mode is the default is decision D11, log entry 3): in mode `noop` `Fx0A` is a two-byte
no-op; in mode `block` the lowest pressed key is stored, and with none pressed the state is the same, so
that the instruction is fetched again. -/
def Obligations.KeyWaitByMode : Prop :=
  ∀ (s : State) (x : Nibble),
    (s.config.keywaitMode = .noop →
      ∃ t, exec (.ldVK x) s = .next t ∧ t.pc = s.pc + 2 ∧ OnlyPc s t) ∧
    (s.config.keywaitMode = .block →
      (∀ k, k < 16 → s.keyDown k = true → (∀ j, j < k → s.keyDown j = false) →
        ∃ t, exec (.ldVK x) s = .next t ∧ (t.reg x).toNat = k ∧ SameRegsBut s t [x] ∧
          t.pc = s.pc + 2 ∧ OnlyRegsPc s t) ∧
      ((∀ k, k < 16 → s.keyDown k = false) → exec (.ldVK x) s = .next s))

/-! ### Encoding -/

/-- R91–R96: decoding an encoded well-formed instruction gives it back, from the word and from the
bytes in memory, whatever follows them. -/
def Obligations.DecodeOfEncode : Prop :=
  ∀ (i : Instr) (rest : List Byte), i.wellFormed = true →
    decode (encode i) = some i ∧ decodeBytes (encodeBytes i ++ rest) = .instr i rest

/-- R95–R98: a word has at most one meaning: an instruction decoded from a word encodes to it. That the
words of families 0, 5 and 9 off the exact patterns have no meaning is decision D15 (log entry 8). -/
def Obligations.EncodeOfDecode : Prop :=
  ∀ (w : Word) (i : Instr), decode w = some i → encode i = w

/-- R95, R98 (exact patterns: decision D15): a word decodes exactly when a row of the opcode table
admits it, the row is the instruction's own, and no other row admits it. -/
def Obligations.DecodeFollowsOpcodeTable : Prop :=
  ∀ w : Word,
    (decode w = none ↔ ∀ r ∈ opcodeTable, r.admits w = false) ∧
    ∀ i, decode w = some i → i.row.admits w = true ∧
      ∀ r ∈ opcodeTable, r.admits w = true → r = i.row

/-- R97 with decision D15: the illegal words, family by family. -/
def Obligations.IllegalWordsByFamily : Prop :=
  ∀ w : Word, decode w = none ↔
    (fieldOp w = 0x0 ∧ w ≠ 0x00E0 ∧ w ≠ 0x00EE) ∨
    (fieldOp w = 0x5 ∧ fieldN w ≠ 0) ∨
    (fieldOp w = 0x8 ∧ fieldN w ∈ [0x8, 0x9, 0xA, 0xB, 0xC, 0xD, 0xF]) ∨
    (fieldOp w = 0x9 ∧ fieldN w ≠ 0) ∨
    (fieldOp w = 0xE ∧ fieldKK w ∉ [0x9E, 0xA1]) ∨
    (fieldOp w = 0xF ∧ fieldKK w ∉ [0x07, 0x0A, 0x15, 0x18, 0x1E, 0x29, 0x33, 0x55, 0x65])

/-- Ten words written out from the patterns of R95, at least one from each of the instruction files
40_display.md to 44_keys_timers.md, decode to the instruction they stand for; and the words of vectors
E2, E5, E7 and E13 decode to none. That `0123` and `5121` do is decision D15 (log entry 8). -/
def Obligations.SampleWordsDecode : Prop :=
  decode 0b0000000011100000 = some .cls ∧ decode 0b0000000011101110 = some .ret ∧
  decode 0b0010001101000101 = some (.call 0x345) ∧ decode 0b0011000101000010 = some (.seVB 1 0x42) ∧
  decode 0b1000000100100101 = some (.sub 1 2) ∧ decode 0b1100000100001111 = some (.rnd 1 0x0F) ∧
  decode 0b1101000100100101 = some (.drw 1 2 5) ∧ decode 0b1110000110100001 = some (.sknp 1) ∧
  decode 0b1111001101010101 = some (.ldMemV 3) ∧ decode 0b1010000100100011 = some (.ldI 0x123) ∧
  decode 0x0123 = none ∧ decode 0x5121 = none ∧ decode 0x8128 = none ∧ decode 0xF1FF = none

/-! ### Reset and the host's transactions -/

/-- R38, R324 (the glyph bytes are the parameter of decision D16, memory above them decision D17): the
state right after reset. -/
def Obligations.ResetStateValues : Prop :=
  (∀ r, State.reset.reg r = 0) ∧ State.reset.index = 0 ∧ State.reset.pc = 0x200 ∧
  (∀ j : Fin 16, State.reset.stack[j] = 0) ∧ State.reset.sp = 0 ∧
  (∀ k, State.reset.keyDown k = false) ∧ State.reset.dt = 0 ∧ State.reset.st = 0 ∧
  (∀ px py, State.reset.pixel px py = false) ∧ State.reset.fault = none ∧
  (∀ (d : Fin 16) (k : Fin 5), State.reset.read (5 * d.val + k.val) =
    State.reset.config.glyphs[5 * d.val + k.val]) ∧
  State.reset.config.keywaitMode = .noop

/-- R320, R324 (which bytes of memory are written is decision D18, the latch D2): Initialize gives
every field of the record its reset value, writes the glyph table, and leaves memory from `0x050` on
and the parameters as they were, whatever the state before. -/
def Obligations.InitializeResetsAll : Prop :=
  ∀ s : State,
    ∃ t, transact .reset s = .next t ∧
      (∀ r, t.reg r = 0) ∧ t.index = 0 ∧ t.pc = 0x200 ∧ (∀ j : Fin 16, t.stack[j] = 0) ∧ t.sp = 0 ∧
      (∀ k, t.keyDown k = false) ∧ t.dt = 0 ∧ t.st = 0 ∧ (∀ px py, t.pixel px py = false) ∧
      t.fault = none ∧ t.started = true ∧ t.config = s.config ∧
      (∀ a : Fin 80, t.read a.val = s.config.glyphs[a]) ∧
      (∀ a, 80 ≤ a → a < 4096 → t.read a = s.read a)

/-- R321, R322 (the refusal is decision D19): LoadProgram copies the image to `0x200` padded with
zeros, resets as Initialize does, leaves `0x050`–`0x1FF`, and refuses an image above 3584 bytes. -/
def Obligations.LoadProgramCopiesAndResets : Prop :=
  ∀ (s : State) (bytes : List Byte),
    (bytes.length ≤ 3584 → ∃ t, transact (.load bytes) s = .next t ∧
      (∀ a, a < 3584 → t.read (0x200 + a) = bytes.getD a 0) ∧
      (∀ a : Fin 80, t.read a.val = s.config.glyphs[a]) ∧
      (∀ a, 80 ≤ a → a < 0x200 → t.read a = s.read a) ∧
      t = { s.initializeCore with memory := t.memory }) ∧
    (3584 < bytes.length → transact (.load bytes) s = .refused .loadTooLong)

/-- R295: SetKey writes the one flag, ignores a key above 15, and changes nothing else; it works while
the core is faulted. -/
def Obligations.SetKeyChangesOneFlag : Prop :=
  ∀ (s : State) (k : Nat) (p : Bool), s.started = true →
    ∃ t, transact (.key k p) s = .next t ∧
      (∀ j, j < 16 → t.keyDown j = if j = k then p else s.keyDown j) ∧
      t = { s with keypad := t.keypad } ∧ (16 ≤ k → t = s)

/-- R296: the view gives 2048 flags, row-major. That it is answered before the first reset too is the
model's choice of log entry 5. -/
def Obligations.FramebufferViewIsRowMajor : Prop :=
  ∀ (s : State) (px py : Nat), px < 64 → py < 32 →
    (framebufferView s).length = 2048 ∧ (framebufferView s)[py * 64 + px]? = some (s.pixel px py)

/-! ### The invariant and whole-machine rules -/

/-- The state after reset meets the invariant. That reset leaves no step output is the model's choice of
log entry 4, the canonical form of memory that of log entry 1. -/
def Obligations.InvariantAtReset : Prop := Inv State.reset

/-- Every step keeps the invariant: memory stays in canonical form (log entry 1), a latched fault stays
precise (R281), and the output, held in State by log entry 4, says Faulted exactly while the latch holds
the record (R286, R301; decision D2). -/
def Obligations.StepKeepsInvariant : Prop :=
  ∀ s t : State, Inv s → step s = .next t → Inv t

/-- The host's other transactions keep the invariant too (R300). That Initialize and LoadProgram leave
no step output and SetKey leaves it alone is the model's choice of log entry 4, the canonical form of
memory that of log entry 1. -/
def Obligations.TransactionsKeepInvariant : Prop :=
  ∀ (s : State) (bytes : List Byte) (k : Nat) (p : Bool), Inv s →
    Inv s.initializeCore ∧ (∀ t, loadProgram bytes s = .next t → Inv t) ∧
    (∀ t, setKey k p s = .next t → Inv t)

/-- R280, R285, R290: every instruction completes in every state, and only a return at `sp = 0` and a
call at `sp = 16` raise anything. -/
def Obligations.OnlyCallAndReturnRaise : Prop :=
  ∀ (i : Instr) (s : State), ∃ t, exec i s = .next t ∧
    (t.fault = s.fault ∨ (i = .ret ∧ s.sp.val = 0) ∨ (∃ nnn, i = .call nnn) ∧ s.sp.val = 16)

/-- R39, R24, R26, R27, R29–R32, R36: each piece of state but registers and `pc` is written only by the
instructions named for it. -/
def Obligations.AccessTableWrites : Prop :=
  ∀ (i : Instr) (s t : State), exec i s = .next t →
    (writesIndex i = false → t.index = s.index) ∧ (writesStack i = false → t.stack = s.stack) ∧
    (writesSp i = false → t.sp = s.sp ∧ t.fault = s.fault) ∧
    (writesDelay i = false → t.dt = s.dt) ∧ (writesSound i = false → t.st = s.st) ∧
    (writesFb i = false → t.fb = s.fb) ∧
    (writesMemory i = false → ∀ a, t.read a = s.read a) ∧
    (takesDraw i = false → t.draws = s.draws) ∧
    t.keypad = s.keypad ∧ t.config = s.config ∧ t.started = s.started ∧ t.result = s.result

/-- R22, R39: a register is written only by an instruction that names it as its destination, has it in
its range, or writes the flag register. -/
def Obligations.RegistersWrittenByNamedOnly : Prop :=
  ∀ (i : Instr) (s t : State) (r : Nibble), exec i s = .next t → writesReg i r = false →
    t.reg r = s.reg r

/-- R29, R39: the keypad cannot be learned by an instruction that is not a key instruction: with any
other keypad it does the same to everything else. -/
def Obligations.KeypadHiddenFromOthers : Prop :=
  ∀ (i : Instr) (s : State) (keys : Vector Bool 16), readsKeypad i = false →
    ∃ t, exec i s = .next t ∧ exec i { s with keypad := keys } = .next { t with keypad := keys }

/-- R27, R28: a step moves the stack pointer by at most one, and never when it faults. -/
def Obligations.StackPointerMovesByOne : Prop :=
  ∀ s t : State, step s = .next t →
    (t.sp.val ≤ s.sp.val + 1 ∧ s.sp.val ≤ t.sp.val + 1) ∧ (t.Faulted → t.sp = s.sp)

/-- R333, with decision D26: a parked core stays parked, and its steps change the timers and the
output only. -/
def Obligations.ParkedStaysParked : Prop :=
  ∀ s : State, s.Parked →
    ∃ t, step s = .next t ∧ t.Parked ∧ t = { s with dt := t.dt, st := t.st, result := t.result }
end

