-- ==== Sys2Proof/Laws/Encoding.lean ====
section
/-! SUPPORT. The fields of a word put together from fields, a word as its fields put together, and
that every instruction is well formed. -/

namespace Sys2Proof

/-- Every operand already has its field's width, so no instruction is ill formed (R94, R98). -/
theorem Instr.wellFormed_all (i : Instr) : i.wellFormed = true := by
  have hn : ∀ v : Nibble, v.toNat < 16 := fun v => v.isLt
  have hb : ∀ v : Byte, v.toNat < 256 := fun v => v.isLt
  have ha : ∀ v : Addr, v.toNat < 4096 := fun v => v.isLt
  cases i <;>
    simp [Instr.wellFormed, registerInRange, immediateInRange, addressInRange, rowCountInRange,
      hn, hb, ha]

/-! ### Words and fields as numbers -/

theorem toNat_append {m n : Nat} (a : BitVec m) (b : BitVec n) :
    (a ++ b).toNat = a.toNat * 2 ^ n + b.toNat := by
  rw [BitVec.toNat_append, ← Nat.shiftLeft_add_eq_or_of_lt b.isLt, Nat.shiftLeft_eq]

theorem toNat_wordA (op : Nibble) (nnn : Addr) :
    (wordA op nnn).toNat = op.toNat * 4096 + nnn.toNat := toNat_append op nnn

theorem toNat_wordXKK (op x : Nibble) (kk : Byte) :
    (wordXKK op x kk).toNat = (op.toNat * 16 + x.toNat) * 256 + kk.toNat :=
  (toNat_append (op ++ x) kk).trans (by rw [toNat_append]; norm_num)

theorem toNat_wordXYN (op x y n : Nibble) :
    (wordXYN op x y n).toNat = ((op.toNat * 16 + x.toNat) * 16 + y.toNat) * 16 + n.toNat :=
  (toNat_append (op ++ x ++ y) n).trans (by rw [toNat_append, toNat_append]; norm_num)

theorem toNat_fieldOp (w : Word) : (fieldOp w).toNat = w.toNat / 4096 % 16 := by
  simp [fieldOp, BitVec.extractLsb'_toNat, Nat.shiftRight_eq_div_pow]
theorem toNat_fieldX (w : Word) : (fieldX w).toNat = w.toNat / 256 % 16 := by
  simp [fieldX, BitVec.extractLsb'_toNat, Nat.shiftRight_eq_div_pow]
theorem toNat_fieldY (w : Word) : (fieldY w).toNat = w.toNat / 16 % 16 := by
  simp [fieldY, BitVec.extractLsb'_toNat, Nat.shiftRight_eq_div_pow]
theorem toNat_fieldN (w : Word) : (fieldN w).toNat = w.toNat % 16 := by
  simp [fieldN, BitVec.extractLsb'_toNat]
theorem toNat_fieldKK (w : Word) : (fieldKK w).toNat = w.toNat % 256 := by
  simp [fieldKK, BitVec.extractLsb'_toNat]
theorem toNat_fieldNNN (w : Word) : (fieldNNN w).toNat = w.toNat % 4096 := by
  simp [fieldNNN, BitVec.extractLsb'_toNat]

/-! ### The fields of a word put together -/

section
variable (op x y n : Nibble) (kk : Byte) (nnn : Addr)

@[simp] theorem fieldOp_wordA : fieldOp (wordA op nnn) = op := by
  apply BitVec.eq_of_toNat_eq; rw [toNat_fieldOp, toNat_wordA]; omega
@[simp] theorem fieldNNN_wordA : fieldNNN (wordA op nnn) = nnn := by
  apply BitVec.eq_of_toNat_eq; rw [toNat_fieldNNN, toNat_wordA]; omega
@[simp] theorem fieldOp_wordXKK : fieldOp (wordXKK op x kk) = op := by
  apply BitVec.eq_of_toNat_eq; rw [toNat_fieldOp, toNat_wordXKK]; omega
@[simp] theorem fieldX_wordXKK : fieldX (wordXKK op x kk) = x := by
  apply BitVec.eq_of_toNat_eq; rw [toNat_fieldX, toNat_wordXKK]; omega
@[simp] theorem fieldKK_wordXKK : fieldKK (wordXKK op x kk) = kk := by
  apply BitVec.eq_of_toNat_eq; rw [toNat_fieldKK, toNat_wordXKK]; omega
@[simp] theorem fieldOp_wordXYN : fieldOp (wordXYN op x y n) = op := by
  apply BitVec.eq_of_toNat_eq; rw [toNat_fieldOp, toNat_wordXYN]; omega
@[simp] theorem fieldX_wordXYN : fieldX (wordXYN op x y n) = x := by
  apply BitVec.eq_of_toNat_eq; rw [toNat_fieldX, toNat_wordXYN]; omega
@[simp] theorem fieldY_wordXYN : fieldY (wordXYN op x y n) = y := by
  apply BitVec.eq_of_toNat_eq; rw [toNat_fieldY, toNat_wordXYN]; omega
@[simp] theorem fieldN_wordXYN : fieldN (wordXYN op x y n) = n := by
  apply BitVec.eq_of_toNat_eq; rw [toNat_fieldN, toNat_wordXYN]; omega

end

/-! ### A word is its fields put together -/

theorem wordA_fields (w : Word) : wordA (fieldOp w) (fieldNNN w) = w := by
  apply BitVec.eq_of_toNat_eq; rw [toNat_wordA, toNat_fieldOp, toNat_fieldNNN]; omega

theorem wordXKK_fields (w : Word) : wordXKK (fieldOp w) (fieldX w) (fieldKK w) = w := by
  apply BitVec.eq_of_toNat_eq
  rw [toNat_wordXKK, toNat_fieldOp, toNat_fieldX, toNat_fieldKK]; omega

theorem wordXYN_fields (w : Word) :
    wordXYN (fieldOp w) (fieldX w) (fieldY w) (fieldN w) = w := by
  apply BitVec.eq_of_toNat_eq
  rw [toNat_wordXYN, toNat_fieldOp, toNat_fieldX, toNat_fieldY, toNat_fieldN]; omega

/-! ### The bits a row of the opcode table fixes, by format -/

theorem wordA_and (a c : Nibble) (b d : Addr) :
    wordA a b &&& wordA c d = wordA (a &&& c) (b &&& d) := BitVec.and_append

theorem wordXKK_and (a x c z : Nibble) (b d : Byte) :
    wordXKK a x b &&& wordXKK c z d = wordXKK (a &&& c) (x &&& z) (b &&& d) :=
  BitVec.and_append.trans (congrArg (· ++ (b &&& d)) BitVec.and_append)

theorem wordXYN_and (a x y n c z u m : Nibble) :
    wordXYN a x y n &&& wordXYN c z u m =
      wordXYN (a &&& c) (x &&& z) (y &&& u) (n &&& m) :=
  BitVec.and_append.trans (congrArg (· ++ (n &&& m))
    (BitVec.and_append.trans (congrArg (· ++ (y &&& u)) BitVec.and_append)))

/-! ### When a word has the bits a row fixes, by format -/

theorem nibble_and_ones (v : Nibble) : v &&& 15#4 = v := BitVec.and_allOnes
theorem nibble_and_zero (v : Nibble) : v &&& 0#4 = 0#4 := BitVec.and_zero
theorem byte_and_ones (v : Byte) : v &&& 255#8 = v := BitVec.and_allOnes

theorem and_maskA_eq (w : Word) (c : Nibble) :
    w &&& wordA 15#4 0#12 = wordA c 0#12 ↔ fieldOp w = c := by
  have h : w &&& wordA 15#4 0#12 = wordA (fieldOp w) 0#12 := by
    conv_lhs => rw [← wordA_fields w]
    rw [wordA_and, nibble_and_ones]; exact congrArg _ BitVec.and_zero
  rw [h]
  exact ⟨fun e => by simpa using congrArg fieldOp e, fun e => by rw [e]⟩

theorem and_maskXKK_eq (w : Word) (c : Nibble) (k : Byte) :
    w &&& wordXKK 15#4 0#4 255#8 = wordXKK c 0#4 k ↔ fieldOp w = c ∧ fieldKK w = k := by
  have h : w &&& wordXKK 15#4 0#4 255#8 = wordXKK (fieldOp w) 0#4 (fieldKK w) := by
    conv_lhs => rw [← wordXKK_fields w]
    rw [wordXKK_and, nibble_and_ones, nibble_and_zero, byte_and_ones]
  rw [h]
  exact ⟨fun e => ⟨by simpa using congrArg fieldOp e, by simpa using congrArg fieldKK e⟩,
    fun ⟨e, f⟩ => by rw [e, f]⟩

theorem and_maskXYN_eq (w : Word) (c n : Nibble) :
    w &&& wordXYN 15#4 0#4 0#4 15#4 = wordXYN c 0#4 0#4 n ↔ fieldOp w = c ∧ fieldN w = n := by
  have h : w &&& wordXYN 15#4 0#4 0#4 15#4 = wordXYN (fieldOp w) 0#4 0#4 (fieldN w) := by
    conv_lhs => rw [← wordXYN_fields w]
    simp only [wordXYN_and, nibble_and_ones, nibble_and_zero]
  rw [h]
  exact ⟨fun e => ⟨by simpa using congrArg fieldOp e, by simpa using congrArg fieldN e⟩,
    fun ⟨e, f⟩ => by rw [e, f]⟩

end Sys2Proof
end

