-- ==== Sys2Proof/Laws/State.lean ====
section
/-! SUPPORT. One lemma per field per update of the state, each true by rfl, and how the readers of the
state (`reg`, `read`, `fetchWord`, `keyDown`, …) see each update. -/

namespace Sys2Proof.Machine

variable (s : State)

/-! ### setReg -/

@[simp] theorem State.setReg_regs (x : Nibble) (v : Byte) : (s.setReg x v).regs = s.regs.set x.toNat v x.isLt := rfl
@[simp] theorem State.setReg_index (x : Nibble) (v : Byte) : (s.setReg x v).index = s.index := rfl
@[simp] theorem State.setReg_pc (x : Nibble) (v : Byte) : (s.setReg x v).pc = s.pc := rfl
@[simp] theorem State.setReg_stack (x : Nibble) (v : Byte) : (s.setReg x v).stack = s.stack := rfl
@[simp] theorem State.setReg_sp (x : Nibble) (v : Byte) : (s.setReg x v).sp = s.sp := rfl
@[simp] theorem State.setReg_keypad (x : Nibble) (v : Byte) : (s.setReg x v).keypad = s.keypad := rfl
@[simp] theorem State.setReg_dt (x : Nibble) (v : Byte) : (s.setReg x v).dt = s.dt := rfl
@[simp] theorem State.setReg_st (x : Nibble) (v : Byte) : (s.setReg x v).st = s.st := rfl
@[simp] theorem State.setReg_fb (x : Nibble) (v : Byte) : (s.setReg x v).fb = s.fb := rfl
@[simp] theorem State.setReg_memory (x : Nibble) (v : Byte) : (s.setReg x v).memory = s.memory := rfl
@[simp] theorem State.setReg_fault (x : Nibble) (v : Byte) : (s.setReg x v).fault = s.fault := rfl
@[simp] theorem State.setReg_config (x : Nibble) (v : Byte) : (s.setReg x v).config = s.config := rfl
@[simp] theorem State.setReg_result (x : Nibble) (v : Byte) : (s.setReg x v).result = s.result := rfl
@[simp] theorem State.setReg_started (x : Nibble) (v : Byte) : (s.setReg x v).started = s.started := rfl
@[simp] theorem State.setReg_draws (x : Nibble) (v : Byte) : (s.setReg x v).draws = s.draws := rfl

/-! ### setFlag -/

@[simp] theorem State.setFlag_regs (v : Byte) : (s.setFlag v).regs = s.regs.set 15 v (by decide) := rfl
@[simp] theorem State.setFlag_index (v : Byte) : (s.setFlag v).index = s.index := rfl
@[simp] theorem State.setFlag_pc (v : Byte) : (s.setFlag v).pc = s.pc := rfl
@[simp] theorem State.setFlag_stack (v : Byte) : (s.setFlag v).stack = s.stack := rfl
@[simp] theorem State.setFlag_sp (v : Byte) : (s.setFlag v).sp = s.sp := rfl
@[simp] theorem State.setFlag_keypad (v : Byte) : (s.setFlag v).keypad = s.keypad := rfl
@[simp] theorem State.setFlag_dt (v : Byte) : (s.setFlag v).dt = s.dt := rfl
@[simp] theorem State.setFlag_st (v : Byte) : (s.setFlag v).st = s.st := rfl
@[simp] theorem State.setFlag_fb (v : Byte) : (s.setFlag v).fb = s.fb := rfl
@[simp] theorem State.setFlag_memory (v : Byte) : (s.setFlag v).memory = s.memory := rfl
@[simp] theorem State.setFlag_fault (v : Byte) : (s.setFlag v).fault = s.fault := rfl
@[simp] theorem State.setFlag_config (v : Byte) : (s.setFlag v).config = s.config := rfl
@[simp] theorem State.setFlag_result (v : Byte) : (s.setFlag v).result = s.result := rfl
@[simp] theorem State.setFlag_started (v : Byte) : (s.setFlag v).started = s.started := rfl
@[simp] theorem State.setFlag_draws (v : Byte) : (s.setFlag v).draws = s.draws := rfl

/-! ### setIndex -/

@[simp] theorem State.setIndex_regs (v : Word) : (s.setIndex v).regs = s.regs := rfl
@[simp] theorem State.setIndex_index (v : Word) : (s.setIndex v).index = v := rfl
@[simp] theorem State.setIndex_pc (v : Word) : (s.setIndex v).pc = s.pc := rfl
@[simp] theorem State.setIndex_stack (v : Word) : (s.setIndex v).stack = s.stack := rfl
@[simp] theorem State.setIndex_sp (v : Word) : (s.setIndex v).sp = s.sp := rfl
@[simp] theorem State.setIndex_keypad (v : Word) : (s.setIndex v).keypad = s.keypad := rfl
@[simp] theorem State.setIndex_dt (v : Word) : (s.setIndex v).dt = s.dt := rfl
@[simp] theorem State.setIndex_st (v : Word) : (s.setIndex v).st = s.st := rfl
@[simp] theorem State.setIndex_fb (v : Word) : (s.setIndex v).fb = s.fb := rfl
@[simp] theorem State.setIndex_memory (v : Word) : (s.setIndex v).memory = s.memory := rfl
@[simp] theorem State.setIndex_fault (v : Word) : (s.setIndex v).fault = s.fault := rfl
@[simp] theorem State.setIndex_config (v : Word) : (s.setIndex v).config = s.config := rfl
@[simp] theorem State.setIndex_result (v : Word) : (s.setIndex v).result = s.result := rfl
@[simp] theorem State.setIndex_started (v : Word) : (s.setIndex v).started = s.started := rfl
@[simp] theorem State.setIndex_draws (v : Word) : (s.setIndex v).draws = s.draws := rfl

/-! ### setDelay -/

@[simp] theorem State.setDelay_regs (v : Byte) : (s.setDelay v).regs = s.regs := rfl
@[simp] theorem State.setDelay_index (v : Byte) : (s.setDelay v).index = s.index := rfl
@[simp] theorem State.setDelay_pc (v : Byte) : (s.setDelay v).pc = s.pc := rfl
@[simp] theorem State.setDelay_stack (v : Byte) : (s.setDelay v).stack = s.stack := rfl
@[simp] theorem State.setDelay_sp (v : Byte) : (s.setDelay v).sp = s.sp := rfl
@[simp] theorem State.setDelay_keypad (v : Byte) : (s.setDelay v).keypad = s.keypad := rfl
@[simp] theorem State.setDelay_dt (v : Byte) : (s.setDelay v).dt = v := rfl
@[simp] theorem State.setDelay_st (v : Byte) : (s.setDelay v).st = s.st := rfl
@[simp] theorem State.setDelay_fb (v : Byte) : (s.setDelay v).fb = s.fb := rfl
@[simp] theorem State.setDelay_memory (v : Byte) : (s.setDelay v).memory = s.memory := rfl
@[simp] theorem State.setDelay_fault (v : Byte) : (s.setDelay v).fault = s.fault := rfl
@[simp] theorem State.setDelay_config (v : Byte) : (s.setDelay v).config = s.config := rfl
@[simp] theorem State.setDelay_result (v : Byte) : (s.setDelay v).result = s.result := rfl
@[simp] theorem State.setDelay_started (v : Byte) : (s.setDelay v).started = s.started := rfl
@[simp] theorem State.setDelay_draws (v : Byte) : (s.setDelay v).draws = s.draws := rfl

/-! ### setSound -/

@[simp] theorem State.setSound_regs (v : Byte) : (s.setSound v).regs = s.regs := rfl
@[simp] theorem State.setSound_index (v : Byte) : (s.setSound v).index = s.index := rfl
@[simp] theorem State.setSound_pc (v : Byte) : (s.setSound v).pc = s.pc := rfl
@[simp] theorem State.setSound_stack (v : Byte) : (s.setSound v).stack = s.stack := rfl
@[simp] theorem State.setSound_sp (v : Byte) : (s.setSound v).sp = s.sp := rfl
@[simp] theorem State.setSound_keypad (v : Byte) : (s.setSound v).keypad = s.keypad := rfl
@[simp] theorem State.setSound_dt (v : Byte) : (s.setSound v).dt = s.dt := rfl
@[simp] theorem State.setSound_st (v : Byte) : (s.setSound v).st = v := rfl
@[simp] theorem State.setSound_fb (v : Byte) : (s.setSound v).fb = s.fb := rfl
@[simp] theorem State.setSound_memory (v : Byte) : (s.setSound v).memory = s.memory := rfl
@[simp] theorem State.setSound_fault (v : Byte) : (s.setSound v).fault = s.fault := rfl
@[simp] theorem State.setSound_config (v : Byte) : (s.setSound v).config = s.config := rfl
@[simp] theorem State.setSound_result (v : Byte) : (s.setSound v).result = s.result := rfl
@[simp] theorem State.setSound_started (v : Byte) : (s.setSound v).started = s.started := rfl
@[simp] theorem State.setSound_draws (v : Byte) : (s.setSound v).draws = s.draws := rfl

/-! ### setFb -/

@[simp] theorem State.setFb_regs (f : Framebuffer) : (s.setFb f).regs = s.regs := rfl
@[simp] theorem State.setFb_index (f : Framebuffer) : (s.setFb f).index = s.index := rfl
@[simp] theorem State.setFb_pc (f : Framebuffer) : (s.setFb f).pc = s.pc := rfl
@[simp] theorem State.setFb_stack (f : Framebuffer) : (s.setFb f).stack = s.stack := rfl
@[simp] theorem State.setFb_sp (f : Framebuffer) : (s.setFb f).sp = s.sp := rfl
@[simp] theorem State.setFb_keypad (f : Framebuffer) : (s.setFb f).keypad = s.keypad := rfl
@[simp] theorem State.setFb_dt (f : Framebuffer) : (s.setFb f).dt = s.dt := rfl
@[simp] theorem State.setFb_st (f : Framebuffer) : (s.setFb f).st = s.st := rfl
@[simp] theorem State.setFb_fb (f : Framebuffer) : (s.setFb f).fb = f := rfl
@[simp] theorem State.setFb_memory (f : Framebuffer) : (s.setFb f).memory = s.memory := rfl
@[simp] theorem State.setFb_fault (f : Framebuffer) : (s.setFb f).fault = s.fault := rfl
@[simp] theorem State.setFb_config (f : Framebuffer) : (s.setFb f).config = s.config := rfl
@[simp] theorem State.setFb_result (f : Framebuffer) : (s.setFb f).result = s.result := rfl
@[simp] theorem State.setFb_started (f : Framebuffer) : (s.setFb f).started = s.started := rfl
@[simp] theorem State.setFb_draws (f : Framebuffer) : (s.setFb f).draws = s.draws := rfl

/-! ### write -/

@[simp] theorem State.write_regs (a : Nat) (v : Byte) : (s.write a v).regs = s.regs := rfl
@[simp] theorem State.write_index (a : Nat) (v : Byte) : (s.write a v).index = s.index := rfl
@[simp] theorem State.write_pc (a : Nat) (v : Byte) : (s.write a v).pc = s.pc := rfl
@[simp] theorem State.write_stack (a : Nat) (v : Byte) : (s.write a v).stack = s.stack := rfl
@[simp] theorem State.write_sp (a : Nat) (v : Byte) : (s.write a v).sp = s.sp := rfl
@[simp] theorem State.write_keypad (a : Nat) (v : Byte) : (s.write a v).keypad = s.keypad := rfl
@[simp] theorem State.write_dt (a : Nat) (v : Byte) : (s.write a v).dt = s.dt := rfl
@[simp] theorem State.write_st (a : Nat) (v : Byte) : (s.write a v).st = s.st := rfl
@[simp] theorem State.write_fb (a : Nat) (v : Byte) : (s.write a v).fb = s.fb := rfl
@[simp] theorem State.write_fault (a : Nat) (v : Byte) : (s.write a v).fault = s.fault := rfl
@[simp] theorem State.write_config (a : Nat) (v : Byte) : (s.write a v).config = s.config := rfl
@[simp] theorem State.write_result (a : Nat) (v : Byte) : (s.write a v).result = s.result := rfl
@[simp] theorem State.write_started (a : Nat) (v : Byte) : (s.write a v).started = s.started := rfl
@[simp] theorem State.write_draws (a : Nat) (v : Byte) : (s.write a v).draws = s.draws := rfl

/-! ### jump -/

@[simp] theorem State.jump_regs (w : Word) : (s.jump w).regs = s.regs := rfl
@[simp] theorem State.jump_index (w : Word) : (s.jump w).index = s.index := rfl
@[simp] theorem State.jump_pc (w : Word) : (s.jump w).pc = w := rfl
@[simp] theorem State.jump_stack (w : Word) : (s.jump w).stack = s.stack := rfl
@[simp] theorem State.jump_sp (w : Word) : (s.jump w).sp = s.sp := rfl
@[simp] theorem State.jump_keypad (w : Word) : (s.jump w).keypad = s.keypad := rfl
@[simp] theorem State.jump_dt (w : Word) : (s.jump w).dt = s.dt := rfl
@[simp] theorem State.jump_st (w : Word) : (s.jump w).st = s.st := rfl
@[simp] theorem State.jump_fb (w : Word) : (s.jump w).fb = s.fb := rfl
@[simp] theorem State.jump_memory (w : Word) : (s.jump w).memory = s.memory := rfl
@[simp] theorem State.jump_fault (w : Word) : (s.jump w).fault = s.fault := rfl
@[simp] theorem State.jump_config (w : Word) : (s.jump w).config = s.config := rfl
@[simp] theorem State.jump_result (w : Word) : (s.jump w).result = s.result := rfl
@[simp] theorem State.jump_started (w : Word) : (s.jump w).started = s.started := rfl
@[simp] theorem State.jump_draws (w : Word) : (s.jump w).draws = s.draws := rfl

/-! ### advance -/

@[simp] theorem State.advance_regs : (s.advance).regs = s.regs := rfl
@[simp] theorem State.advance_index : (s.advance).index = s.index := rfl
@[simp] theorem State.advance_pc : (s.advance).pc = s.pc + 2 := rfl
@[simp] theorem State.advance_stack : (s.advance).stack = s.stack := rfl
@[simp] theorem State.advance_sp : (s.advance).sp = s.sp := rfl
@[simp] theorem State.advance_keypad : (s.advance).keypad = s.keypad := rfl
@[simp] theorem State.advance_dt : (s.advance).dt = s.dt := rfl
@[simp] theorem State.advance_st : (s.advance).st = s.st := rfl
@[simp] theorem State.advance_fb : (s.advance).fb = s.fb := rfl
@[simp] theorem State.advance_memory : (s.advance).memory = s.memory := rfl
@[simp] theorem State.advance_fault : (s.advance).fault = s.fault := rfl
@[simp] theorem State.advance_config : (s.advance).config = s.config := rfl
@[simp] theorem State.advance_result : (s.advance).result = s.result := rfl
@[simp] theorem State.advance_started : (s.advance).started = s.started := rfl
@[simp] theorem State.advance_draws : (s.advance).draws = s.draws := rfl

/-! ### skipIf -/

@[simp] theorem State.skipIf_regs (c : Bool) : (s.skipIf c).regs = s.regs := rfl
@[simp] theorem State.skipIf_index (c : Bool) : (s.skipIf c).index = s.index := rfl
@[simp] theorem State.skipIf_pc (c : Bool) : (s.skipIf c).pc = s.pc + if c then 4 else 2 := rfl
@[simp] theorem State.skipIf_stack (c : Bool) : (s.skipIf c).stack = s.stack := rfl
@[simp] theorem State.skipIf_sp (c : Bool) : (s.skipIf c).sp = s.sp := rfl
@[simp] theorem State.skipIf_keypad (c : Bool) : (s.skipIf c).keypad = s.keypad := rfl
@[simp] theorem State.skipIf_dt (c : Bool) : (s.skipIf c).dt = s.dt := rfl
@[simp] theorem State.skipIf_st (c : Bool) : (s.skipIf c).st = s.st := rfl
@[simp] theorem State.skipIf_fb (c : Bool) : (s.skipIf c).fb = s.fb := rfl
@[simp] theorem State.skipIf_memory (c : Bool) : (s.skipIf c).memory = s.memory := rfl
@[simp] theorem State.skipIf_fault (c : Bool) : (s.skipIf c).fault = s.fault := rfl
@[simp] theorem State.skipIf_config (c : Bool) : (s.skipIf c).config = s.config := rfl
@[simp] theorem State.skipIf_result (c : Bool) : (s.skipIf c).result = s.result := rfl
@[simp] theorem State.skipIf_started (c : Bool) : (s.skipIf c).started = s.started := rfl
@[simp] theorem State.skipIf_draws (c : Bool) : (s.skipIf c).draws = s.draws := rfl

/-! ### raise -/

@[simp] theorem State.raise_regs (f : Fault) (w : Word) : (s.raise f w).regs = s.regs := rfl
@[simp] theorem State.raise_index (f : Fault) (w : Word) : (s.raise f w).index = s.index := rfl
@[simp] theorem State.raise_pc (f : Fault) (w : Word) : (s.raise f w).pc = s.pc := rfl
@[simp] theorem State.raise_stack (f : Fault) (w : Word) : (s.raise f w).stack = s.stack := rfl
@[simp] theorem State.raise_sp (f : Fault) (w : Word) : (s.raise f w).sp = s.sp := rfl
@[simp] theorem State.raise_keypad (f : Fault) (w : Word) : (s.raise f w).keypad = s.keypad := rfl
@[simp] theorem State.raise_dt (f : Fault) (w : Word) : (s.raise f w).dt = s.dt := rfl
@[simp] theorem State.raise_st (f : Fault) (w : Word) : (s.raise f w).st = s.st := rfl
@[simp] theorem State.raise_fb (f : Fault) (w : Word) : (s.raise f w).fb = s.fb := rfl
@[simp] theorem State.raise_memory (f : Fault) (w : Word) : (s.raise f w).memory = s.memory := rfl
@[simp] theorem State.raise_fault (f : Fault) (w : Word) : (s.raise f w).fault = some { cause := f, pc := s.pc, word := w } := rfl
@[simp] theorem State.raise_config (f : Fault) (w : Word) : (s.raise f w).config = s.config := rfl
@[simp] theorem State.raise_result (f : Fault) (w : Word) : (s.raise f w).result = s.result := rfl
@[simp] theorem State.raise_started (f : Fault) (w : Word) : (s.raise f w).started = s.started := rfl
@[simp] theorem State.raise_draws (f : Fault) (w : Word) : (s.raise f w).draws = s.draws := rfl

/-! ### timerUpdate -/

@[simp] theorem State.timerUpdate_regs : (s.timerUpdate).regs = s.regs := rfl
@[simp] theorem State.timerUpdate_index : (s.timerUpdate).index = s.index := rfl
@[simp] theorem State.timerUpdate_pc : (s.timerUpdate).pc = s.pc := rfl
@[simp] theorem State.timerUpdate_stack : (s.timerUpdate).stack = s.stack := rfl
@[simp] theorem State.timerUpdate_sp : (s.timerUpdate).sp = s.sp := rfl
@[simp] theorem State.timerUpdate_keypad : (s.timerUpdate).keypad = s.keypad := rfl
@[simp] theorem State.timerUpdate_dt : (s.timerUpdate).dt = countDown s.dt := rfl
@[simp] theorem State.timerUpdate_st : (s.timerUpdate).st = countDown s.st := rfl
@[simp] theorem State.timerUpdate_fb : (s.timerUpdate).fb = s.fb := rfl
@[simp] theorem State.timerUpdate_memory : (s.timerUpdate).memory = s.memory := rfl
@[simp] theorem State.timerUpdate_fault : (s.timerUpdate).fault = s.fault := rfl
@[simp] theorem State.timerUpdate_config : (s.timerUpdate).config = s.config := rfl
@[simp] theorem State.timerUpdate_result : (s.timerUpdate).result = some (.ok (s.st == 1)) := rfl
@[simp] theorem State.timerUpdate_started : (s.timerUpdate).started = s.started := rfl
@[simp] theorem State.timerUpdate_draws : (s.timerUpdate).draws = s.draws := rfl

/-! ### stayFaulted -/

@[simp] theorem State.stayFaulted_regs (r : FaultRecord) : (s.stayFaulted r).regs = s.regs := rfl
@[simp] theorem State.stayFaulted_index (r : FaultRecord) : (s.stayFaulted r).index = s.index := rfl
@[simp] theorem State.stayFaulted_pc (r : FaultRecord) : (s.stayFaulted r).pc = s.pc := rfl
@[simp] theorem State.stayFaulted_stack (r : FaultRecord) : (s.stayFaulted r).stack = s.stack := rfl
@[simp] theorem State.stayFaulted_sp (r : FaultRecord) : (s.stayFaulted r).sp = s.sp := rfl
@[simp] theorem State.stayFaulted_keypad (r : FaultRecord) : (s.stayFaulted r).keypad = s.keypad := rfl
@[simp] theorem State.stayFaulted_dt (r : FaultRecord) : (s.stayFaulted r).dt = s.dt := rfl
@[simp] theorem State.stayFaulted_st (r : FaultRecord) : (s.stayFaulted r).st = s.st := rfl
@[simp] theorem State.stayFaulted_fb (r : FaultRecord) : (s.stayFaulted r).fb = s.fb := rfl
@[simp] theorem State.stayFaulted_memory (r : FaultRecord) : (s.stayFaulted r).memory = s.memory := rfl
@[simp] theorem State.stayFaulted_fault (r : FaultRecord) : (s.stayFaulted r).fault = s.fault := rfl
@[simp] theorem State.stayFaulted_config (r : FaultRecord) : (s.stayFaulted r).config = s.config := rfl
@[simp] theorem State.stayFaulted_result (r : FaultRecord) : (s.stayFaulted r).result = some (.faulted r) := rfl
@[simp] theorem State.stayFaulted_started (r : FaultRecord) : (s.stayFaulted r).started = s.started := rfl
@[simp] theorem State.stayFaulted_draws (r : FaultRecord) : (s.stayFaulted r).draws = s.draws := rfl

/-! ### takeDraw -/

@[simp] theorem State.takeDraw_regs : (s.takeDraw).regs = s.regs := rfl
@[simp] theorem State.takeDraw_index : (s.takeDraw).index = s.index := rfl
@[simp] theorem State.takeDraw_pc : (s.takeDraw).pc = s.pc := rfl
@[simp] theorem State.takeDraw_stack : (s.takeDraw).stack = s.stack := rfl
@[simp] theorem State.takeDraw_sp : (s.takeDraw).sp = s.sp := rfl
@[simp] theorem State.takeDraw_keypad : (s.takeDraw).keypad = s.keypad := rfl
@[simp] theorem State.takeDraw_dt : (s.takeDraw).dt = s.dt := rfl
@[simp] theorem State.takeDraw_st : (s.takeDraw).st = s.st := rfl
@[simp] theorem State.takeDraw_fb : (s.takeDraw).fb = s.fb := rfl
@[simp] theorem State.takeDraw_memory : (s.takeDraw).memory = s.memory := rfl
@[simp] theorem State.takeDraw_fault : (s.takeDraw).fault = s.fault := rfl
@[simp] theorem State.takeDraw_config : (s.takeDraw).config = s.config := rfl
@[simp] theorem State.takeDraw_result : (s.takeDraw).result = s.result := rfl
@[simp] theorem State.takeDraw_started : (s.takeDraw).started = s.started := rfl
@[simp] theorem State.takeDraw_draws : (s.takeDraw).draws = s.draws + 1 := rfl

/-! ### Readers that an update leaves alone -/

@[simp] theorem State.read_setReg (x : Nibble) (v : Byte) (b : Nat) : (s.setReg x v).read b = s.read b := rfl
@[simp] theorem State.unlisted_setReg (x : Nibble) (v : Byte) (b : Nat) : (s.setReg x v).unlisted b = s.unlisted b := rfl
@[simp] theorem State.glyphByte_setReg (x : Nibble) (v : Byte) (b : Nat) : (s.setReg x v).glyphByte b = s.glyphByte b := rfl
@[simp] theorem State.memoryWf_setReg (x : Nibble) (v : Byte) : (s.setReg x v).memoryWf = s.memoryWf := rfl
@[simp] theorem State.fetchWord_setReg (x : Nibble) (v : Byte) : (s.setReg x v).fetchWord = s.fetchWord := rfl
@[simp] theorem State.keyDown_setReg (x : Nibble) (v : Byte) (k : Nat) : (s.setReg x v).keyDown k = s.keyDown k := rfl
@[simp] theorem State.lowestKey_setReg (x : Nibble) (v : Byte) : (s.setReg x v).lowestKey = s.lowestKey := rfl
@[simp] theorem State.indexAddr_setReg (x : Nibble) (v : Byte) (k : Nat) : (s.setReg x v).indexAddr k = s.indexAddr k := rfl
@[simp] theorem State.pixel_setReg (x : Nibble) (v : Byte) (cx cy : Nat) : (s.setReg x v).pixel cx cy = s.pixel cx cy := rfl
@[simp] theorem State.read_setFlag (v : Byte) (b : Nat) : (s.setFlag v).read b = s.read b := rfl
@[simp] theorem State.unlisted_setFlag (v : Byte) (b : Nat) : (s.setFlag v).unlisted b = s.unlisted b := rfl
@[simp] theorem State.glyphByte_setFlag (v : Byte) (b : Nat) : (s.setFlag v).glyphByte b = s.glyphByte b := rfl
@[simp] theorem State.memoryWf_setFlag (v : Byte) : (s.setFlag v).memoryWf = s.memoryWf := rfl
@[simp] theorem State.fetchWord_setFlag (v : Byte) : (s.setFlag v).fetchWord = s.fetchWord := rfl
@[simp] theorem State.keyDown_setFlag (v : Byte) (k : Nat) : (s.setFlag v).keyDown k = s.keyDown k := rfl
@[simp] theorem State.lowestKey_setFlag (v : Byte) : (s.setFlag v).lowestKey = s.lowestKey := rfl
@[simp] theorem State.indexAddr_setFlag (v : Byte) (k : Nat) : (s.setFlag v).indexAddr k = s.indexAddr k := rfl
@[simp] theorem State.pixel_setFlag (v : Byte) (cx cy : Nat) : (s.setFlag v).pixel cx cy = s.pixel cx cy := rfl
@[simp] theorem State.reg_setIndex (v : Word) (y : Nibble) : (s.setIndex v).reg y = s.reg y := rfl
@[simp] theorem State.read_setIndex (v : Word) (b : Nat) : (s.setIndex v).read b = s.read b := rfl
@[simp] theorem State.unlisted_setIndex (v : Word) (b : Nat) : (s.setIndex v).unlisted b = s.unlisted b := rfl
@[simp] theorem State.glyphByte_setIndex (v : Word) (b : Nat) : (s.setIndex v).glyphByte b = s.glyphByte b := rfl
@[simp] theorem State.memoryWf_setIndex (v : Word) : (s.setIndex v).memoryWf = s.memoryWf := rfl
@[simp] theorem State.fetchWord_setIndex (v : Word) : (s.setIndex v).fetchWord = s.fetchWord := rfl
@[simp] theorem State.keyDown_setIndex (v : Word) (k : Nat) : (s.setIndex v).keyDown k = s.keyDown k := rfl
@[simp] theorem State.lowestKey_setIndex (v : Word) : (s.setIndex v).lowestKey = s.lowestKey := rfl
@[simp] theorem State.pixel_setIndex (v : Word) (cx cy : Nat) : (s.setIndex v).pixel cx cy = s.pixel cx cy := rfl
@[simp] theorem State.reg_setDelay (v : Byte) (y : Nibble) : (s.setDelay v).reg y = s.reg y := rfl
@[simp] theorem State.read_setDelay (v : Byte) (b : Nat) : (s.setDelay v).read b = s.read b := rfl
@[simp] theorem State.unlisted_setDelay (v : Byte) (b : Nat) : (s.setDelay v).unlisted b = s.unlisted b := rfl
@[simp] theorem State.glyphByte_setDelay (v : Byte) (b : Nat) : (s.setDelay v).glyphByte b = s.glyphByte b := rfl
@[simp] theorem State.memoryWf_setDelay (v : Byte) : (s.setDelay v).memoryWf = s.memoryWf := rfl
@[simp] theorem State.fetchWord_setDelay (v : Byte) : (s.setDelay v).fetchWord = s.fetchWord := rfl
@[simp] theorem State.keyDown_setDelay (v : Byte) (k : Nat) : (s.setDelay v).keyDown k = s.keyDown k := rfl
@[simp] theorem State.lowestKey_setDelay (v : Byte) : (s.setDelay v).lowestKey = s.lowestKey := rfl
@[simp] theorem State.indexAddr_setDelay (v : Byte) (k : Nat) : (s.setDelay v).indexAddr k = s.indexAddr k := rfl
@[simp] theorem State.pixel_setDelay (v : Byte) (cx cy : Nat) : (s.setDelay v).pixel cx cy = s.pixel cx cy := rfl
@[simp] theorem State.reg_setSound (v : Byte) (y : Nibble) : (s.setSound v).reg y = s.reg y := rfl
@[simp] theorem State.read_setSound (v : Byte) (b : Nat) : (s.setSound v).read b = s.read b := rfl
@[simp] theorem State.unlisted_setSound (v : Byte) (b : Nat) : (s.setSound v).unlisted b = s.unlisted b := rfl
@[simp] theorem State.glyphByte_setSound (v : Byte) (b : Nat) : (s.setSound v).glyphByte b = s.glyphByte b := rfl
@[simp] theorem State.memoryWf_setSound (v : Byte) : (s.setSound v).memoryWf = s.memoryWf := rfl
@[simp] theorem State.fetchWord_setSound (v : Byte) : (s.setSound v).fetchWord = s.fetchWord := rfl
@[simp] theorem State.keyDown_setSound (v : Byte) (k : Nat) : (s.setSound v).keyDown k = s.keyDown k := rfl
@[simp] theorem State.lowestKey_setSound (v : Byte) : (s.setSound v).lowestKey = s.lowestKey := rfl
@[simp] theorem State.indexAddr_setSound (v : Byte) (k : Nat) : (s.setSound v).indexAddr k = s.indexAddr k := rfl
@[simp] theorem State.pixel_setSound (v : Byte) (cx cy : Nat) : (s.setSound v).pixel cx cy = s.pixel cx cy := rfl
@[simp] theorem State.reg_setFb (f : Framebuffer) (y : Nibble) : (s.setFb f).reg y = s.reg y := rfl
@[simp] theorem State.read_setFb (f : Framebuffer) (b : Nat) : (s.setFb f).read b = s.read b := rfl
@[simp] theorem State.unlisted_setFb (f : Framebuffer) (b : Nat) : (s.setFb f).unlisted b = s.unlisted b := rfl
@[simp] theorem State.glyphByte_setFb (f : Framebuffer) (b : Nat) : (s.setFb f).glyphByte b = s.glyphByte b := rfl
@[simp] theorem State.memoryWf_setFb (f : Framebuffer) : (s.setFb f).memoryWf = s.memoryWf := rfl
@[simp] theorem State.fetchWord_setFb (f : Framebuffer) : (s.setFb f).fetchWord = s.fetchWord := rfl
@[simp] theorem State.keyDown_setFb (f : Framebuffer) (k : Nat) : (s.setFb f).keyDown k = s.keyDown k := rfl
@[simp] theorem State.lowestKey_setFb (f : Framebuffer) : (s.setFb f).lowestKey = s.lowestKey := rfl
@[simp] theorem State.indexAddr_setFb (f : Framebuffer) (k : Nat) : (s.setFb f).indexAddr k = s.indexAddr k := rfl
@[simp] theorem State.reg_write (a : Nat) (v : Byte) (y : Nibble) : (s.write a v).reg y = s.reg y := rfl
@[simp] theorem State.unlisted_write (a : Nat) (v : Byte) (b : Nat) : (s.write a v).unlisted b = s.unlisted b := rfl
@[simp] theorem State.glyphByte_write (a : Nat) (v : Byte) (b : Nat) : (s.write a v).glyphByte b = s.glyphByte b := rfl
@[simp] theorem State.keyDown_write (a : Nat) (v : Byte) (k : Nat) : (s.write a v).keyDown k = s.keyDown k := rfl
@[simp] theorem State.lowestKey_write (a : Nat) (v : Byte) : (s.write a v).lowestKey = s.lowestKey := rfl
@[simp] theorem State.indexAddr_write (a : Nat) (v : Byte) (k : Nat) : (s.write a v).indexAddr k = s.indexAddr k := rfl
@[simp] theorem State.pixel_write (a : Nat) (v : Byte) (cx cy : Nat) : (s.write a v).pixel cx cy = s.pixel cx cy := rfl
@[simp] theorem State.reg_jump (w : Word) (y : Nibble) : (s.jump w).reg y = s.reg y := rfl
@[simp] theorem State.read_jump (w : Word) (b : Nat) : (s.jump w).read b = s.read b := rfl
@[simp] theorem State.unlisted_jump (w : Word) (b : Nat) : (s.jump w).unlisted b = s.unlisted b := rfl
@[simp] theorem State.glyphByte_jump (w : Word) (b : Nat) : (s.jump w).glyphByte b = s.glyphByte b := rfl
@[simp] theorem State.memoryWf_jump (w : Word) : (s.jump w).memoryWf = s.memoryWf := rfl
@[simp] theorem State.keyDown_jump (w : Word) (k : Nat) : (s.jump w).keyDown k = s.keyDown k := rfl
@[simp] theorem State.lowestKey_jump (w : Word) : (s.jump w).lowestKey = s.lowestKey := rfl
@[simp] theorem State.indexAddr_jump (w : Word) (k : Nat) : (s.jump w).indexAddr k = s.indexAddr k := rfl
@[simp] theorem State.pixel_jump (w : Word) (cx cy : Nat) : (s.jump w).pixel cx cy = s.pixel cx cy := rfl
@[simp] theorem State.reg_advance (y : Nibble) : (s.advance).reg y = s.reg y := rfl
@[simp] theorem State.read_advance (b : Nat) : (s.advance).read b = s.read b := rfl
@[simp] theorem State.unlisted_advance (b : Nat) : (s.advance).unlisted b = s.unlisted b := rfl
@[simp] theorem State.glyphByte_advance (b : Nat) : (s.advance).glyphByte b = s.glyphByte b := rfl
@[simp] theorem State.memoryWf_advance : (s.advance).memoryWf = s.memoryWf := rfl
@[simp] theorem State.keyDown_advance (k : Nat) : (s.advance).keyDown k = s.keyDown k := rfl
@[simp] theorem State.lowestKey_advance : (s.advance).lowestKey = s.lowestKey := rfl
@[simp] theorem State.indexAddr_advance (k : Nat) : (s.advance).indexAddr k = s.indexAddr k := rfl
@[simp] theorem State.pixel_advance (cx cy : Nat) : (s.advance).pixel cx cy = s.pixel cx cy := rfl
@[simp] theorem State.reg_skipIf (c : Bool) (y : Nibble) : (s.skipIf c).reg y = s.reg y := rfl
@[simp] theorem State.read_skipIf (c : Bool) (b : Nat) : (s.skipIf c).read b = s.read b := rfl
@[simp] theorem State.unlisted_skipIf (c : Bool) (b : Nat) : (s.skipIf c).unlisted b = s.unlisted b := rfl
@[simp] theorem State.glyphByte_skipIf (c : Bool) (b : Nat) : (s.skipIf c).glyphByte b = s.glyphByte b := rfl
@[simp] theorem State.memoryWf_skipIf (c : Bool) : (s.skipIf c).memoryWf = s.memoryWf := rfl
@[simp] theorem State.keyDown_skipIf (c : Bool) (k : Nat) : (s.skipIf c).keyDown k = s.keyDown k := rfl
@[simp] theorem State.lowestKey_skipIf (c : Bool) : (s.skipIf c).lowestKey = s.lowestKey := rfl
@[simp] theorem State.indexAddr_skipIf (c : Bool) (k : Nat) : (s.skipIf c).indexAddr k = s.indexAddr k := rfl
@[simp] theorem State.pixel_skipIf (c : Bool) (cx cy : Nat) : (s.skipIf c).pixel cx cy = s.pixel cx cy := rfl
@[simp] theorem State.reg_raise (f : Fault) (w : Word) (y : Nibble) : (s.raise f w).reg y = s.reg y := rfl
@[simp] theorem State.read_raise (f : Fault) (w : Word) (b : Nat) : (s.raise f w).read b = s.read b := rfl
@[simp] theorem State.unlisted_raise (f : Fault) (w : Word) (b : Nat) : (s.raise f w).unlisted b = s.unlisted b := rfl
@[simp] theorem State.glyphByte_raise (f : Fault) (w : Word) (b : Nat) : (s.raise f w).glyphByte b = s.glyphByte b := rfl
@[simp] theorem State.memoryWf_raise (f : Fault) (w : Word) : (s.raise f w).memoryWf = s.memoryWf := rfl
@[simp] theorem State.fetchWord_raise (f : Fault) (w : Word) : (s.raise f w).fetchWord = s.fetchWord := rfl
@[simp] theorem State.keyDown_raise (f : Fault) (w : Word) (k : Nat) : (s.raise f w).keyDown k = s.keyDown k := rfl
@[simp] theorem State.lowestKey_raise (f : Fault) (w : Word) : (s.raise f w).lowestKey = s.lowestKey := rfl
@[simp] theorem State.indexAddr_raise (f : Fault) (w : Word) (k : Nat) : (s.raise f w).indexAddr k = s.indexAddr k := rfl
@[simp] theorem State.pixel_raise (f : Fault) (w : Word) (cx cy : Nat) : (s.raise f w).pixel cx cy = s.pixel cx cy := rfl
@[simp] theorem State.reg_timerUpdate (y : Nibble) : (s.timerUpdate).reg y = s.reg y := rfl
@[simp] theorem State.read_timerUpdate (b : Nat) : (s.timerUpdate).read b = s.read b := rfl
@[simp] theorem State.unlisted_timerUpdate (b : Nat) : (s.timerUpdate).unlisted b = s.unlisted b := rfl
@[simp] theorem State.glyphByte_timerUpdate (b : Nat) : (s.timerUpdate).glyphByte b = s.glyphByte b := rfl
@[simp] theorem State.memoryWf_timerUpdate : (s.timerUpdate).memoryWf = s.memoryWf := rfl
@[simp] theorem State.fetchWord_timerUpdate : (s.timerUpdate).fetchWord = s.fetchWord := rfl
@[simp] theorem State.keyDown_timerUpdate (k : Nat) : (s.timerUpdate).keyDown k = s.keyDown k := rfl
@[simp] theorem State.lowestKey_timerUpdate : (s.timerUpdate).lowestKey = s.lowestKey := rfl
@[simp] theorem State.indexAddr_timerUpdate (k : Nat) : (s.timerUpdate).indexAddr k = s.indexAddr k := rfl
@[simp] theorem State.pixel_timerUpdate (cx cy : Nat) : (s.timerUpdate).pixel cx cy = s.pixel cx cy := rfl
@[simp] theorem State.reg_stayFaulted (r : FaultRecord) (y : Nibble) : (s.stayFaulted r).reg y = s.reg y := rfl
@[simp] theorem State.read_stayFaulted (r : FaultRecord) (b : Nat) : (s.stayFaulted r).read b = s.read b := rfl
@[simp] theorem State.unlisted_stayFaulted (r : FaultRecord) (b : Nat) : (s.stayFaulted r).unlisted b = s.unlisted b := rfl
@[simp] theorem State.glyphByte_stayFaulted (r : FaultRecord) (b : Nat) : (s.stayFaulted r).glyphByte b = s.glyphByte b := rfl
@[simp] theorem State.memoryWf_stayFaulted (r : FaultRecord) : (s.stayFaulted r).memoryWf = s.memoryWf := rfl
@[simp] theorem State.fetchWord_stayFaulted (r : FaultRecord) : (s.stayFaulted r).fetchWord = s.fetchWord := rfl
@[simp] theorem State.keyDown_stayFaulted (r : FaultRecord) (k : Nat) : (s.stayFaulted r).keyDown k = s.keyDown k := rfl
@[simp] theorem State.lowestKey_stayFaulted (r : FaultRecord) : (s.stayFaulted r).lowestKey = s.lowestKey := rfl
@[simp] theorem State.indexAddr_stayFaulted (r : FaultRecord) (k : Nat) : (s.stayFaulted r).indexAddr k = s.indexAddr k := rfl
@[simp] theorem State.pixel_stayFaulted (r : FaultRecord) (cx cy : Nat) : (s.stayFaulted r).pixel cx cy = s.pixel cx cy := rfl
@[simp] theorem State.reg_takeDraw (y : Nibble) : (s.takeDraw).reg y = s.reg y := rfl
@[simp] theorem State.read_takeDraw (b : Nat) : (s.takeDraw).read b = s.read b := rfl
@[simp] theorem State.unlisted_takeDraw (b : Nat) : (s.takeDraw).unlisted b = s.unlisted b := rfl
@[simp] theorem State.glyphByte_takeDraw (b : Nat) : (s.takeDraw).glyphByte b = s.glyphByte b := rfl
@[simp] theorem State.memoryWf_takeDraw : (s.takeDraw).memoryWf = s.memoryWf := rfl
@[simp] theorem State.fetchWord_takeDraw : (s.takeDraw).fetchWord = s.fetchWord := rfl
@[simp] theorem State.keyDown_takeDraw (k : Nat) : (s.takeDraw).keyDown k = s.keyDown k := rfl
@[simp] theorem State.lowestKey_takeDraw : (s.takeDraw).lowestKey = s.lowestKey := rfl
@[simp] theorem State.indexAddr_takeDraw (k : Nat) : (s.takeDraw).indexAddr k = s.indexAddr k := rfl
@[simp] theorem State.pixel_takeDraw (cx cy : Nat) : (s.takeDraw).pixel cx cy = s.pixel cx cy := rfl

end Sys2Proof.Machine
end

