-- ==== Sys2Proof/Laws/Memory.lean ====
section
/-! SUPPORT. What the memory operations do: a read after a write, the canonical form, the fetch. -/

namespace Sys2Proof.Machine

theorem cellAt_putCell (a b : Nat) (v : Byte) (m : List Host.Cell) :
    cellAt (putCell a v m) b = if b = a then some v else cellAt m b := by
  induction m with
  | nil => simp [putCell, cellAt]
  | cons c t ih =>
    obtain ⟨c, w⟩ := c
    simp only [putCell]
    split
    · simp [cellAt]
    · split
      · subst_vars; simp only [cellAt]; split <;> simp_all
      · simp only [cellAt, ih]
        split
        · split <;> simp_all
        · rfl

theorem cellAt_dropCell (a b : Nat) (m : List Host.Cell) :
    cellAt (dropCell a m) b = if b = a then none else cellAt m b := by
  induction m with
  | nil => simp [dropCell, cellAt]
  | cons c t ih =>
    obtain ⟨c, w⟩ := c
    simp only [dropCell] at ih
    by_cases h : c = a
    · subst h; simp only [dropCell, List.filter_cons, bne_self_eq_false, Bool.false_eq_true,
        if_false, ih, cellAt]
      split <;> simp_all
    · simp only [dropCell, List.filter_cons, bne_iff_ne, ne_eq, h, not_false_eq_true, if_true,
        cellAt, ih]
      split <;> simp_all

theorem cellAt_filter (p : Nat → Bool) (b : Nat) (m : List Host.Cell) :
    cellAt (m.filter fun c => p c.1) b = if p b then cellAt m b else none := by
  induction m with
  | nil => simp [cellAt]
  | cons c t ih =>
    obtain ⟨c, w⟩ := c
    simp only [List.filter_cons, cellAt]
    split
    · simp only [cellAt, ih]; split <;> simp_all
    · rw [ih]
      split
      · split <;> simp_all
      · rfl

/-! ### Unlisted cells -/

/-- No glyph stands above the table (R37). -/
theorem State.glyphByte_above (s : State) (c : Nat) (h : 80 ≤ c) : s.glyphByte c = none := by
  simp [State.glyphByte, Nat.not_lt.mpr h]

/-- A cell of the table, in a core that is reset (R37, R38). -/
theorem State.unlisted_glyph (s : State) (hs : s.started = true) (c : Fin 80) :
    s.unlisted c.val = s.config.glyphs[c] := by
  simp [State.unlisted, State.glyphByte, hs]

/-- Above the table an unlisted cell is the power-on memory, before and after a reset (R323). -/
theorem State.unlisted_above (s : State) (c : Nat) (h : 80 ≤ c) :
    s.unlisted c = Config.powerOnMemory c := by
  simp [State.unlisted, s.glyphByte_above c h]

/-- Before the first reset every unlisted cell is the power-on memory (R323). -/
theorem State.unlisted_not_started (s : State) (hs : s.started = false) (c : Nat) :
    s.unlisted c = Config.powerOnMemory c := by
  simp [State.unlisted, State.glyphByte, hs]

/-- A read after a write: the byte written at the same cell, every other cell as before. -/
theorem State.read_write (s : State) (a b : Nat) (v : Byte) :
    (s.write a v).read b = if cellIndex b = cellIndex a then v else s.read b := by
  by_cases hg : s.glyphByte (cellIndex a) = some v
  · have hm : (s.write a v).memory = dropCell (cellIndex a) s.memory := by simp [State.write, hg]
    simp only [State.read, hm, cellAt_dropCell, State.unlisted_write]
    split
    · rename_i h; simp [h, State.unlisted, hg]
    · rfl
  · have hm : (s.write a v).memory = putCell (cellIndex a) v s.memory := by simp [State.write, hg]
    simp only [State.read, hm, cellAt_putCell, State.unlisted_write]
    split <;> simp

theorem cellIndex_lt (a : Nat) : cellIndex a < 4096 := Nat.mod_lt _ (by decide)

/-! ### The canonical form -/

theorem all_putCell (p : Host.Cell → Bool) (a : Nat) (v : Byte) (m : List Host.Cell)
    (hp : p (a, v) = true) (hm : m.all p = true) : (putCell a v m).all p = true := by
  induction m with
  | nil => simp [putCell, hp]
  | cons c t ih =>
    obtain ⟨c, w⟩ := c
    simp only [List.all_cons, Bool.and_eq_true] at hm
    simp only [putCell]
    split
    · simp only [List.all_cons, hp, hm, Bool.and_self]
    · split
      · simp only [List.all_cons, hp, hm, Bool.and_self]
      · simp only [List.all_cons, hm.1, ih hm.2, Bool.and_self]

theorem all_filter (p q : Host.Cell → Bool) (m : List Host.Cell) (hm : m.all p = true) :
    (m.filter q).all p = true := by
  simp only [List.all_eq_true, List.mem_filter] at *
  exact fun c hc => hm c hc.1

theorem risingCells_putCell (a : Nat) (v : Byte) (m : List Host.Cell) (hm : risingCells m = true) :
    risingCells (putCell a v m) = true := by
  induction m with
  | nil => simp [putCell, risingCells]
  | cons c t ih =>
    obtain ⟨c, w⟩ := c
    simp only [risingCells, Bool.and_eq_true] at hm
    simp only [putCell]
    split
    · rename_i h
      simp only [risingCells, Bool.and_eq_true, List.all_cons, List.all_eq_true,
        decide_eq_true_eq] at *
      exact ⟨⟨h, fun d hd => Nat.lt_trans h (hm.1 d hd)⟩, hm⟩
    · split
      · subst_vars; simp only [risingCells, hm, Bool.and_self]
      · rename_i h h'
        simp only [risingCells, Bool.and_eq_true]
        exact ⟨all_putCell _ _ _ _ (by simpa using by omega) hm.1, ih hm.2⟩

theorem risingCells_filter (q : Host.Cell → Bool) (m : List Host.Cell) (hm : risingCells m = true) :
    risingCells (m.filter q) = true := by
  induction m with
  | nil => simp [risingCells]
  | cons c t ih =>
    simp only [risingCells, Bool.and_eq_true] at hm
    simp only [List.filter_cons]
    split
    · simp only [risingCells, Bool.and_eq_true]
      exact ⟨all_filter _ _ _ hm.1, ih hm.2⟩
    · exact ih hm.2

/-- A write keeps memory canonical. -/
theorem State.memoryWf_write (s : State) (a : Nat) (v : Byte) (h : s.memoryWf = true) :
    (s.write a v).memoryWf = true := by
  simp only [State.memoryWf, Bool.and_eq_true, State.glyphByte_write] at *
  by_cases hg : s.glyphByte (cellIndex a) = some v
  · have hm : (s.write a v).memory = dropCell (cellIndex a) s.memory := by simp [State.write, hg]
    rw [hm]
    exact ⟨risingCells_filter _ _ h.1, all_filter _ _ _ h.2⟩
  · have hm : (s.write a v).memory = putCell (cellIndex a) v s.memory := by simp [State.write, hg]
    rw [hm]
    refine ⟨risingCells_putCell _ _ _ h.1, all_putCell _ _ _ _ ?_ h.2⟩
    simp [cellIndex_lt, hg]

theorem State.memoryWf_reset : State.reset.memoryWf = true := rfl

/-! ### Fetch -/

theorem wordOfBytes_split (w : Word) : wordOfBytes (highByte w) (lowByte w) = w := by
  apply BitVec.eq_of_getLsbD_eq
  intro i hi
  simp only [wordOfBytes, highByte, lowByte, BitVec.getLsbD_append, BitVec.getLsbD_extractLsb']
  split
  · simp_all
  · rename_i h
    rw [show 8 + (i - 8) = i by omega, show decide (i - 8 < 8) = true by simp; omega]; simp

/-- The word laid at `pc` is the one the next fetch reads. -/
theorem State.fetchWord_placeWord (s : State) (w : Word) : (s.placeWord w).fetchWord = w := by
  have h : ∀ p : Nat, cellIndex p ≠ cellIndex (p + 1) := by intro p; simp [cellIndex]; omega
  simp only [State.placeWord, State.fetchWord, State.write_pc, State.read_write]
  simp [h, wordOfBytes_split]

end Sys2Proof.Machine
end

