-- ==== Sys2Proof/Laws/Ops.lean ====
section
/-! SUPPORT. What each shared operation can do: registers, the stack, the end of a cycle, block stores
and loads, keys, the sprite. -/

namespace Sys2Proof.Machine

/-! ### Registers -/

theorem State.reg_setReg (s : State) (x y : Nibble) (v : Byte) :
    (s.setReg x v).reg y = if y = x then v else s.reg y := by
  simp only [State.reg, State.setReg_regs, Vector.getElem_set]
  by_cases h : y = x
  · simp [h]
  · rw [if_neg h, if_neg]; intro e; exact h (BitVec.eq_of_toNat_eq e.symm)

theorem State.reg_setFlag (s : State) (y : Nibble) (v : Byte) :
    (s.setFlag v).reg y = if y = 15 then v else s.reg y := s.reg_setReg 15 y v

theorem State.setFlag_eq (s : State) (v : Byte) : s.setFlag v = s.setReg 15 v := rfl

/-! ### The call stack -/

theorem State.pushJump_of_lt (s : State) (ra target word : Word) (h : s.sp.val < 16) :
    s.pushJump ra target word =
      { s with stack := s.stack.set s.sp.val ra h, sp := ⟨s.sp.val + 1, by omega⟩, pc := target } := by
  simp [State.pushJump, h]

theorem State.pushJump_full (s : State) (ra target word : Word) (h : s.sp.val = 16) :
    s.pushJump ra target word = s.raise .stackOverflow word := by simp [State.pushJump, h]

theorem State.popJump_of_pos (s : State) (word : Word) (h : 0 < s.sp.val) :
    s.popJump word =
      { s with sp := ⟨s.sp.val - 1, by omega⟩, pc := s.stack[s.sp.val - 1]'(by omega) } := by
  simp [State.popJump, h]

theorem State.popJump_empty (s : State) (word : Word) (h : s.sp.val = 0) :
    s.popJump word = s.raise .stackUnderflow word := by simp [State.popJump, h]

/-! ### The end of a cycle -/

theorem State.endCycle_of_live (s : State) (h : s.fault = none) : s.endCycle = s.timerUpdate := by
  simp [State.endCycle, h]

theorem State.endCycle_of_fault (s : State) (r : FaultRecord) (h : s.fault = some r) :
    s.endCycle = s.stayFaulted r := by simp [State.endCycle, h, State.stayFaulted]

/-- The end of a cycle touches the timers and the output only. -/
theorem State.endCycle_frame (s : State) :
    s.endCycle = { s with dt := s.endCycle.dt, st := s.endCycle.st, result := s.endCycle.result } := by
  unfold State.endCycle; split <;> rfl

theorem State.decodeFailure_eq (s : State) (w : Word) :
    s.decodeFailure w = (s.raise .decodeFailure w).stayFaulted ⟨.decodeFailure, s.pc, w⟩ := rfl

/-! ### Block stores and loads -/

/-- A block store touches memory only. -/
theorem State.storeFrom_frame (vs : List Byte) : ∀ (s : State) (k : Nat),
    s.storeFrom k vs = { s with memory := (s.storeFrom k vs).memory } := by
  induction vs with
  | nil => intro s k; rfl
  | cons v vs ih => intro s k; rw [State.storeFrom, ih]; rfl

theorem State.indexAddr_storeFrom (s : State) (k : Nat) (vs : List Byte) (j : Nat) :
    (s.storeFrom k vs).indexAddr j = s.indexAddr j := by
  rw [s.storeFrom_frame vs k]; rfl

/-- A cell the block does not reach keeps its byte. -/
theorem State.read_storeFrom_outside (vs : List Byte) : ∀ (s : State) (k b : Nat),
    (∀ j, j < vs.length → cellIndex b ≠ cellIndex (s.indexAddr (k + j))) →
      (s.storeFrom k vs).read b = s.read b := by
  induction vs with
  | nil => intro s k b _; rfl
  | cons v vs ih =>
    intro s k b h
    rw [State.storeFrom, ih, State.read_write, if_neg]
    · simpa using h 0 (by simp)
    · intro j hj; simpa [Nat.add_assoc, Nat.add_comm 1] using h (j + 1) (by simpa using hj)

/-- Each cell of the block holds its byte, as long as the block does not wrap onto itself. -/
theorem State.read_storeFrom (vs : List Byte) : ∀ (s : State) (k j : Nat) (_ : vs.length ≤ 4096)
    (hj : j < vs.length), (s.storeFrom k vs).read (s.indexAddr (k + j)) = vs[j] := by
  induction vs with
  | nil => intro s k j _ hj; simp at hj
  | cons v vs ih =>
    intro s k j hl hj
    simp only [List.length_cons] at hl hj
    cases j with
    | zero =>
      rw [Nat.add_zero, State.storeFrom, State.read_storeFrom_outside, State.read_write, if_pos rfl]; · rfl
      intro j hj; simp only [cellIndex, State.indexAddr, State.write_index]; omega
    | succ j =>
      have := ih (s.write (s.indexAddr k) v) (k + 1) j (by omega) (by omega)
      simp only [State.indexAddr_write] at this
      rw [show k + (j + 1) = k + 1 + j by omega, State.storeFrom, this]; rfl

/-- A block store keeps memory canonical. -/
theorem State.memoryWf_storeFrom (vs : List Byte) : ∀ (s : State) (k : Nat),
    s.memoryWf = true → (s.storeFrom k vs).memoryWf = true := by
  induction vs with
  | nil => intro s k h; exact h
  | cons v vs ih => intro s k h; exact ih _ _ (s.memoryWf_write _ _ h)

/-- A block load touches registers only. -/
theorem State.loadRegs_frame (is : List Nat) : ∀ s : State,
    s.loadRegs is = { s with regs := (s.loadRegs is).regs } := by
  induction is with
  | nil => intro s; rfl
  | cons i is ih => intro s; rw [State.loadRegs, ih]; rfl

/-- A block load: each listed register holds the byte at its offset from `I`. -/
theorem State.reg_loadRegs (is : List Nat) : ∀ (s : State) (y : Nibble), (∀ i ∈ is, i < 16) →
    (s.loadRegs is).reg y = if y.toNat ∈ is then s.read (s.indexAddr y.toNat) else s.reg y := by
  induction is with
  | nil => intro s y _; rfl
  | cons i is ih =>
    intro s y h
    have hi := h i (by simp)
    rw [State.loadRegs, ih _ _ (fun j hj => h j (by simp [hj]))]
    simp only [State.read_setReg, State.indexAddr_setReg, State.reg_setReg, List.mem_cons]
    have hy : y = rangeReg i ↔ y.toNat = i := by
      rw [← BitVec.toNat_inj]; simp only [rangeReg, BitVec.toNat_ofNat]; omega
    by_cases h1 : y.toNat ∈ is
    · simp [h1]
    · simp only [h1, if_false, or_false, hy]
      split <;> simp_all

/-! ### Keys -/

/-- The lowest pressed key is pressed and no lower one is. -/
theorem State.lowestKey_some (s : State) (k : Nat) (h : s.lowestKey = some k) :
    k < 16 ∧ s.keyDown k = true ∧ ∀ j, j < k → s.keyDown j = false := by
  unfold State.lowestKey at h
  have := List.find?_range_eq_some.mp h
  exact ⟨by simpa using this.2.1, this.1, fun j hj => by simpa using this.2.2 j hj⟩

/-- No lowest key: no key is pressed. -/
theorem State.lowestKey_none (s : State) (h : s.lowestKey = none) (k : Nat) (hk : k < 16) :
    s.keyDown k = false := by
  unfold State.lowestKey at h
  simpa using List.find?_range_eq_none.mp h k hk

end Sys2Proof.Machine
end

