-- ==== Sys2Proof/Laws/PerInstr.lean ====
section
/-! SUPPORT. Per instruction: its word has the bits its row of spec/opcode_table.json fixes, the row is
one of the table, and its operands are in range. -/

namespace Sys2Proof.Laws.OpcodeRow

/-- The instruction is well formed, its row stands in the table, and its word matches the row. -/
def Statement (i : Instr) : Prop :=
  i.wellFormed = true ∧ i.row ∈ opcodeTable ∧ encode i &&& i.row.mask = i.row.pattern

theorem nibble_and_ones (v : Nibble) : v &&& 0xF = v := by
  rw [show (0xF : Nibble) = BitVec.allOnes 4 from rfl, BitVec.and_allOnes]

theorem byte_and_ones (v : Byte) : v &&& 0xFF = v := by
  rw [show (0xFF : Byte) = BitVec.allOnes 8 from rfl, BitVec.and_allOnes]

/-- A word of format `A` under the mask of its opcode nibble; the next four are the other formats. -/
theorem matches_A (op : Nibble) (nnn : Addr) : wordA op nnn &&& 0xF000 = wordA op 0 := by
  rw [show (0xF000 : Word) = wordA 0xF 0 by decide, wordA_and, nibble_and_ones,
    show nnn &&& 0 = 0 from BitVec.and_zero]

theorem matches_XKK (op x : Nibble) (kk : Byte) : wordXKK op x kk &&& 0xF000 = wordXKK op 0 0 := by
  rw [show (0xF000 : Word) = wordXKK 0xF 0 0 by decide, wordXKK_and, nibble_and_ones,
    show x &&& 0 = 0 from BitVec.and_zero, show kk &&& 0 = 0 from BitVec.and_zero]

theorem matches_X (op x : Nibble) (kk : Byte) : wordXKK op x kk &&& 0xF0FF = wordXKK op 0 kk := by
  rw [show (0xF0FF : Word) = wordXKK 0xF 0 0xFF by decide, wordXKK_and, nibble_and_ones,
    byte_and_ones, show x &&& 0 = 0 from BitVec.and_zero]

theorem matches_XY (op x y n : Nibble) : wordXYN op x y n &&& 0xF00F = wordXYN op 0 0 n := by
  rw [show (0xF00F : Word) = wordXYN 0xF 0 0 0xF by decide, wordXYN_and, nibble_and_ones,
    nibble_and_ones, show x &&& 0 = 0 from BitVec.and_zero, show y &&& 0 = 0 from BitVec.and_zero]

theorem matches_XYN (op x y n : Nibble) : wordXYN op x y n &&& 0xF000 = wordXYN op 0 0 0 := by
  rw [show (0xF000 : Word) = wordXYN 0xF 0 0 0 by decide, wordXYN_and, nibble_and_ones,
    show x &&& 0 = 0 from BitVec.and_zero, show y &&& 0 = 0 from BitVec.and_zero,
    show n &&& 0 = 0 from BitVec.and_zero]

theorem cls : Statement .cls := by
  refine ⟨Instr.wellFormed_all _, ?_, ?_⟩ <;> decide

theorem ret : Statement .ret := by
  refine ⟨Instr.wellFormed_all _, ?_, ?_⟩ <;> decide

theorem jp (nnn : Addr) : Statement (.jp nnn) :=
  ⟨Instr.wellFormed_all _, by simp [Instr.row, opcodeTable], by rw [encode, Instr.row, matches_A]; decide⟩

theorem call (nnn : Addr) : Statement (.call nnn) :=
  ⟨Instr.wellFormed_all _, by simp [Instr.row, opcodeTable], by rw [encode, Instr.row, matches_A]; decide⟩

theorem seVB (x : Nibble) (kk : Byte) : Statement (.seVB x kk) :=
  ⟨Instr.wellFormed_all _, by simp [Instr.row, opcodeTable], by rw [encode, Instr.row, matches_XKK]; decide⟩

theorem sneVB (x : Nibble) (kk : Byte) : Statement (.sneVB x kk) :=
  ⟨Instr.wellFormed_all _, by simp [Instr.row, opcodeTable], by rw [encode, Instr.row, matches_XKK]; decide⟩

theorem seVV (x y : Nibble) : Statement (.seVV x y) :=
  ⟨Instr.wellFormed_all _, by simp [Instr.row, opcodeTable], by rw [encode, Instr.row, matches_XY]; decide⟩

theorem ldVB (x : Nibble) (kk : Byte) : Statement (.ldVB x kk) :=
  ⟨Instr.wellFormed_all _, by simp [Instr.row, opcodeTable], by rw [encode, Instr.row, matches_XKK]; decide⟩

theorem addVB (x : Nibble) (kk : Byte) : Statement (.addVB x kk) :=
  ⟨Instr.wellFormed_all _, by simp [Instr.row, opcodeTable], by rw [encode, Instr.row, matches_XKK]; decide⟩

theorem ldVV (x y : Nibble) : Statement (.ldVV x y) :=
  ⟨Instr.wellFormed_all _, by simp [Instr.row, opcodeTable], by rw [encode, Instr.row, matches_XY]; decide⟩

theorem orVV (x y : Nibble) : Statement (.orVV x y) :=
  ⟨Instr.wellFormed_all _, by simp [Instr.row, opcodeTable], by rw [encode, Instr.row, matches_XY]; decide⟩

theorem andVV (x y : Nibble) : Statement (.andVV x y) :=
  ⟨Instr.wellFormed_all _, by simp [Instr.row, opcodeTable], by rw [encode, Instr.row, matches_XY]; decide⟩

theorem xorVV (x y : Nibble) : Statement (.xorVV x y) :=
  ⟨Instr.wellFormed_all _, by simp [Instr.row, opcodeTable], by rw [encode, Instr.row, matches_XY]; decide⟩

theorem addVV (x y : Nibble) : Statement (.addVV x y) :=
  ⟨Instr.wellFormed_all _, by simp [Instr.row, opcodeTable], by rw [encode, Instr.row, matches_XY]; decide⟩

theorem sub (x y : Nibble) : Statement (.sub x y) :=
  ⟨Instr.wellFormed_all _, by simp [Instr.row, opcodeTable], by rw [encode, Instr.row, matches_XY]; decide⟩

theorem shr (x y : Nibble) : Statement (.shr x y) :=
  ⟨Instr.wellFormed_all _, by simp [Instr.row, opcodeTable], by rw [encode, Instr.row, matches_XY]; decide⟩

theorem subn (x y : Nibble) : Statement (.subn x y) :=
  ⟨Instr.wellFormed_all _, by simp [Instr.row, opcodeTable], by rw [encode, Instr.row, matches_XY]; decide⟩

theorem shl (x y : Nibble) : Statement (.shl x y) :=
  ⟨Instr.wellFormed_all _, by simp [Instr.row, opcodeTable], by rw [encode, Instr.row, matches_XY]; decide⟩

theorem sneVV (x y : Nibble) : Statement (.sneVV x y) :=
  ⟨Instr.wellFormed_all _, by simp [Instr.row, opcodeTable], by rw [encode, Instr.row, matches_XY]; decide⟩

theorem ldI (nnn : Addr) : Statement (.ldI nnn) :=
  ⟨Instr.wellFormed_all _, by simp [Instr.row, opcodeTable], by rw [encode, Instr.row, matches_A]; decide⟩

theorem jpV0 (nnn : Addr) : Statement (.jpV0 nnn) :=
  ⟨Instr.wellFormed_all _, by simp [Instr.row, opcodeTable], by rw [encode, Instr.row, matches_A]; decide⟩

theorem rnd (x : Nibble) (kk : Byte) : Statement (.rnd x kk) :=
  ⟨Instr.wellFormed_all _, by simp [Instr.row, opcodeTable], by rw [encode, Instr.row, matches_XKK]; decide⟩

theorem drw (x y n : Nibble) : Statement (.drw x y n) :=
  ⟨Instr.wellFormed_all _, by simp [Instr.row, opcodeTable], by rw [encode, Instr.row, matches_XYN]; decide⟩

theorem skp (x : Nibble) : Statement (.skp x) :=
  ⟨Instr.wellFormed_all _, by simp [Instr.row, opcodeTable], by rw [encode, Instr.row, matches_X]; decide⟩

theorem sknp (x : Nibble) : Statement (.sknp x) :=
  ⟨Instr.wellFormed_all _, by simp [Instr.row, opcodeTable], by rw [encode, Instr.row, matches_X]; decide⟩

theorem ldVDT (x : Nibble) : Statement (.ldVDT x) :=
  ⟨Instr.wellFormed_all _, by simp [Instr.row, opcodeTable], by rw [encode, Instr.row, matches_X]; decide⟩

theorem ldVK (x : Nibble) : Statement (.ldVK x) :=
  ⟨Instr.wellFormed_all _, by simp [Instr.row, opcodeTable], by rw [encode, Instr.row, matches_X]; decide⟩

theorem ldDTV (x : Nibble) : Statement (.ldDTV x) :=
  ⟨Instr.wellFormed_all _, by simp [Instr.row, opcodeTable], by rw [encode, Instr.row, matches_X]; decide⟩

theorem ldSTV (x : Nibble) : Statement (.ldSTV x) :=
  ⟨Instr.wellFormed_all _, by simp [Instr.row, opcodeTable], by rw [encode, Instr.row, matches_X]; decide⟩

theorem addIV (x : Nibble) : Statement (.addIV x) :=
  ⟨Instr.wellFormed_all _, by simp [Instr.row, opcodeTable], by rw [encode, Instr.row, matches_X]; decide⟩

theorem ldFV (x : Nibble) : Statement (.ldFV x) :=
  ⟨Instr.wellFormed_all _, by simp [Instr.row, opcodeTable], by rw [encode, Instr.row, matches_X]; decide⟩

theorem ldBV (x : Nibble) : Statement (.ldBV x) :=
  ⟨Instr.wellFormed_all _, by simp [Instr.row, opcodeTable], by rw [encode, Instr.row, matches_X]; decide⟩

theorem ldMemV (x : Nibble) : Statement (.ldMemV x) :=
  ⟨Instr.wellFormed_all _, by simp [Instr.row, opcodeTable], by rw [encode, Instr.row, matches_X]; decide⟩

theorem ldVMem (x : Nibble) : Statement (.ldVMem x) :=
  ⟨Instr.wellFormed_all _, by simp [Instr.row, opcodeTable], by rw [encode, Instr.row, matches_X]; decide⟩

end Sys2Proof.Laws.OpcodeRow
end

