-- ==== Sys2Proof/Laws/Sprite.lean ====
section
/-! SUPPORT. What drawing does to each pixel and to the collision: pixel, row, sprite (40_display.md
R130–R134). -/

namespace Sys2Proof.Machine

/-- Two coordinates name the same pixel (R130). -/
def samePixel (ax ay bx by' : Nat) : Bool := ax % 64 == bx % 64 && ay % 32 == by' % 32

theorem pixelAt_congr (f : Framebuffer) {ax ay bx by' : Nat} (hx : ax % 64 = bx % 64)
    (hy : ay % 32 = by' % 32) : pixelAt f ax ay = pixelAt f bx by' := by
  simp only [pixelAt, wrapRow, wrapColumn, hx, hy]

theorem pixelAt_flipPixel (f : Framebuffer) (cx cy px py : Nat) :
    pixelAt (flipPixel f cx cy) px py = (pixelAt f px py ^^ samePixel cx cy px py) := by
  simp only [pixelAt, flipPixel, samePixel, wrapRow, wrapColumn, Fin.getElem_fin,
    Vector.getElem_set]
  by_cases hy : cy % 32 = py % 32
  · by_cases hx : cx % 64 = px % 64
    · simp [hx, hy]
    · simp [hx, hy, beq_false_of_ne hx]
  · simp [hy, beq_false_of_ne hy]

theorem pixelAt_drawPixel (cx cy px py : Nat) (bit : Bool) (c : Canvas) :
    pixelAt (drawPixel cx cy bit c).1 px py =
      (pixelAt c.1 px py ^^ (bit && samePixel cx cy px py)) := by
  cases bit <;> simp [drawPixel, pixelAt_flipPixel]

theorem drawPixel_hit (cx cy : Nat) (bit : Bool) (c : Canvas) :
    (drawPixel cx cy bit c).2 = (c.2 || bit && pixelAt c.1 cx cy) := by
  cases bit <;> simp [drawPixel]

/-- The first `m` columns of a row. -/
def drawColumns (cx cy : Nat) (b : Byte) (c : Canvas) (m : Nat) : Canvas :=
  (List.range m).foldl (fun a k => drawPixel (cx + k) cy (spriteBit b k) a) c

theorem drawRow_eq (cx cy : Nat) (b : Byte) (c : Canvas) :
    drawRow cx cy b c = drawColumns cx cy b c 8 := rfl

/-- The first `m` columns have a set bit over a pixel. -/
def rowCovers (cx cy : Nat) (b : Byte) (m px py : Nat) : Bool :=
  (List.range m).any fun k => spriteBit b k && (cx + k) % 64 == px % 64 && cy % 32 == py % 32

theorem any_range_succ (m : Nat) (p : Nat → Bool) :
    (List.range (m + 1)).any p = ((List.range m).any p || p m) := by
  simp [List.range_succ, List.any_append]

/-- Where two terms are never both true, `||` is `^^`. -/
theorem or_eq_xor {a b : Bool} (h : ¬(a = true ∧ b = true)) : (a || b) = (a ^^ b) := by
  cases a <;> cases b <;> simp_all

theorem drawColumns_spec (cx cy : Nat) (b : Byte) (c : Canvas) (m : Nat) (hm : m ≤ 64) :
    (∀ px py, pixelAt (drawColumns cx cy b c m).1 px py =
      (pixelAt c.1 px py ^^ rowCovers cx cy b m px py)) ∧
    (drawColumns cx cy b c m).2 =
      (c.2 || (List.range m).any fun k => spriteBit b k && pixelAt c.1 (cx + k) cy) := by
  induction m with
  | zero => simp [drawColumns, rowCovers]
  | succ m ih =>
    obtain ⟨ih1, ih2⟩ := ih (by omega)
    have hstep : drawColumns cx cy b c (m + 1) =
        drawPixel (cx + m) cy (spriteBit b m) (drawColumns cx cy b c m) := by
      simp [drawColumns, List.range_succ]
    have hfree : rowCovers cx cy b m (cx + m) cy = false := by
      simp only [rowCovers, List.any_eq_false, List.mem_range]
      intro k hk; simp; intro _; omega
    constructor
    · intro px py
      rw [hstep, pixelAt_drawPixel, ih1, Bool.xor_assoc]
      congr 1
      simp only [rowCovers, any_range_succ, samePixel, ← Bool.and_assoc]
      refine (or_eq_xor ?_).symm
      simp only [List.any_eq_true, List.mem_range, Bool.and_eq_true, beq_iff_eq, not_and,
        forall_exists_index]
      intro k hk; omega
    · rw [hstep, drawPixel_hit, ih1, hfree, Bool.xor_false, ih2, any_range_succ, Bool.or_assoc]

theorem spriteCovers_eq (s : State) (cx cy m px py : Nat) :
    spriteCovers s cx cy m px py =
      (List.range m).any fun r => rowCovers cx (cy + r) (s.read (s.indexAddr r)) 8 px py := rfl

/-- The pixels a sprite turns over and the collision it reports: every pixel under a set bit is turned
over, and the collision is that one of them was set. -/
theorem State.drawSprite_spec (s : State) (cx cy m : Nat) (hm : m ≤ 32) :
    (∀ px py, pixelAt (s.drawSprite cx cy m).1 px py =
      (s.pixel px py ^^ spriteCovers s cx cy m px py)) ∧
    ((s.drawSprite cx cy m).2 = true ↔
      ∃ px py, s.pixel px py = true ∧ spriteCovers s cx cy m px py = true) := by
  induction m with
  | zero => simp [State.drawSprite, spriteCovers, State.pixel]
  | succ m ih =>
    obtain ⟨ih1, ih2⟩ := ih (by omega)
    have hstep : s.drawSprite cx cy (m + 1) =
        drawColumns cx (cy + m) (s.read (s.indexAddr m)) (s.drawSprite cx cy m) 8 := by
      simp [State.drawSprite, List.range_succ, drawRow_eq]
    obtain ⟨r1, r2⟩ := drawColumns_spec cx (cy + m) (s.read (s.indexAddr m))
      (s.drawSprite cx cy m) 8 (by omega)
    have hfree : ∀ px, spriteCovers s cx cy m px (cy + m) = false := by
      intro px
      simp only [spriteCovers, List.any_eq_false, List.any_eq_true, List.mem_range,
        Bool.and_eq_true, beq_iff_eq, not_exists, not_and]
      intro r hr k hk _; omega
    have hsucc : ∀ px py, spriteCovers s cx cy (m + 1) px py = (spriteCovers s cx cy m px py ||
        rowCovers cx (cy + m) (s.read (s.indexAddr m)) 8 px py) := by
      intro px py; simp only [spriteCovers_eq, any_range_succ]
    constructor
    · intro px py
      rw [hstep, r1, ih1, hsucc, Bool.xor_assoc]
      congr 1
      refine (or_eq_xor ?_).symm
      simp only [spriteCovers, rowCovers, List.any_eq_true, List.mem_range, Bool.and_eq_true,
        beq_iff_eq, not_and, forall_exists_index]
      intro r hr; omega
    · rw [hstep, r2, Bool.or_eq_true, ih2, List.any_eq_true]
      simp only [ih1, hfree, Bool.xor_false, hsucc, Bool.or_eq_true, List.mem_range,
        Bool.and_eq_true]
      constructor
      · rintro (⟨px, py, h1, h2⟩ | ⟨k, hk, hb, hp⟩)
        · exact ⟨px, py, h1, .inl h2⟩
        · refine ⟨cx + k, cy + m, hp, .inr ?_⟩
          simp only [rowCovers, List.any_eq_true, List.mem_range, Bool.and_eq_true, beq_iff_eq]
          exact ⟨k, hk, ⟨hb, rfl⟩, trivial⟩
      · rintro ⟨px, py, h1, h2 | h2⟩
        · exact .inl ⟨px, py, h1, h2⟩
        · simp only [rowCovers, List.any_eq_true, List.mem_range, Bool.and_eq_true,
            beq_iff_eq] at h2
          obtain ⟨k, hk, ⟨hb, hx⟩, hy⟩ := h2
          exact .inr ⟨k, hk, hb, (pixelAt_congr _ hx hy).trans h1⟩

end Sys2Proof.Machine
end

