-- ==== Sys2Proof/Laws/Values.lean ====
section
/-! SUPPORT. The values operations compute, as numbers: immediates, sums, flags, the countdown, the
random byte, the fetched word, and a byte range of the program image. -/

namespace Sys2Proof.Machine

theorem countDown_toNat (v : Byte) : (countDown v).toNat = v.toNat - 1 := by
  unfold countDown
  split
  · subst_vars; rfl
  · rename_i h
    have : v.toNat ≠ 0 := fun e => h (BitVec.eq_of_toNat_eq e)
    rw [BitVec.toNat_sub_of_le]
    · rfl
    · simp only [BitVec.le_def]; change 1 ≤ v.toNat; omega

theorem zext16_toNat (nnn : Addr) : (zext16 nnn).toNat = nnn.toNat := by
  have : nnn.toNat < 4096 := nnn.isLt
  simp only [zext16, BitVec.toNat_setWidth]; omega

theorem zextByte_toNat (v : Byte) : (zextByte v).toNat = v.toNat := by
  have : v.toNat < 256 := v.isLt
  simp only [zextByte, BitVec.toNat_setWidth]; omega

theorem narrowSum_toNat (n : Nat) : (narrowSum n).toNat = n % 256 := by simp [narrowSum]

theorem b2u_eq_one (c : Bool) : b2u c = 1 ↔ c = true := by cases c <;> decide

theorem greaterFlag_toNat (a b : Byte) :
    (greaterFlag a b).toNat = if a.toNat > b.toNat then 1 else 0 := by
  simp only [greaterFlag, b2u, decide_eq_true_eq]; split <;> rfl

theorem rand_toNat (k : Nat) : (Config.rand k).toNat = (Config.draw k).val + 1 := by
  have := (Config.draw k).isLt
  simp only [Config.rand, BitVec.toNat_ofNat]; omega

theorem keyMask_toNat (v : Byte) : (v &&& 0x0F).toNat = v.toNat % 16 := by revert v; decide

/-- A skip's program counter, the condition as a proposition. -/
theorem State.skipIf_pc_of_iff (s : State) (c : Bool) (p : Prop) [Decidable p] (h : c = true ↔ p) :
    (s.skipIf c).pc = if p then s.pc + 4 else s.pc + 2 := by
  rw [State.skipIf_pc]; by_cases hp : p <;> simp [hp, h]

theorem State.fetchWord_toNat (s : State) :
    s.fetchWord.toNat = (s.read s.pc.toNat).toNat * 256 + (s.read (s.pc.toNat + 1)).toNat := by
  simp only [State.fetchWord, wordOfBytes, BitVec.toNat_append]
  rw [← Nat.shiftLeft_add_eq_or_of_lt (BitVec.isLt _), Nat.shiftLeft_eq]

theorem State.rangeValues_length (s : State) (x : Nibble) :
    (s.rangeValues x).length = x.toNat + 1 := by simp [State.rangeValues, registerRange]

/-- Framebuffers with the same pixels are the same. -/
theorem framebuffer_ext (f g : Framebuffer) (h : ∀ px py, pixelAt f px py = pixelAt g px py) :
    f = g := by
  apply Vector.ext; intro i hi; apply Vector.ext; intro j hj
  have := h j i
  simpa [pixelAt, wrapRow, wrapColumn, Nat.mod_eq_of_lt hi, Nat.mod_eq_of_lt hj] using this

/-! ### The cells of an image -/

theorem cellAt_append (m n : List Host.Cell) (a : Nat) :
    cellAt (m ++ n) a = (cellAt m a).or (cellAt n a) := by
  induction m with
  | nil => simp [cellAt]
  | cons c t ih => obtain ⟨c, w⟩ := c; simp only [List.cons_append, cellAt]; split <;> simp [ih]

theorem cellAt_cellsFrom (vs : List Byte) : ∀ b a : Nat,
    cellAt (cellsFrom b vs) a = if b ≤ a then vs[a - b]? else none := by
  induction vs with
  | nil => intro b a; simp [cellsFrom, cellAt]
  | cons v vs ih =>
    intro b a
    simp only [cellsFrom, cellAt, ih]
    by_cases h : a = b
    · simp [h]
    · rw [if_neg h]
      by_cases h2 : b + 1 ≤ a
      · rw [if_pos h2, if_pos (by omega), show a - b = (a - (b + 1)) + 1 by omega]; rfl
      · rw [if_neg h2, if_neg (by omega)]

theorem mem_cellsFrom (vs : List Byte) : ∀ (a : Nat) (c : Host.Cell), c ∈ cellsFrom a vs →
    a ≤ c.1 ∧ c.1 < a + vs.length := by
  induction vs with
  | nil => intro a c h; simp [cellsFrom] at h
  | cons v vs ih =>
    intro a c h
    simp only [cellsFrom, List.mem_cons] at h
    rcases h with rfl | h
    · simp
    · have := ih (a + 1) c h; simp only [List.length_cons]; omega

theorem risingCells_cellsFrom (vs : List Byte) : ∀ a, risingCells (cellsFrom a vs) = true := by
  induction vs with
  | nil => intro a; rfl
  | cons v vs ih =>
    intro a
    simp only [cellsFrom, risingCells, Bool.and_eq_true, List.all_eq_true, decide_eq_true_eq]
    exact ⟨fun c hc => by have := mem_cellsFrom vs (a + 1) c hc; omega, ih _⟩

theorem cellAt_initializeCore (s : State) (a : Nat) :
    cellAt s.initializeCore.memory a = if 80 ≤ a then cellAt s.memory a else none := by
  simpa [State.initializeCore] using cellAt_filter (fun a => decide (80 ≤ a)) a s.memory

end Sys2Proof.Machine
end

