-- ==== Sys2Proof/Laws/Step.lean ====
section
/-! SUPPORT. What a step can do, said once, and what the stack operations can do. -/

namespace Sys2Proof.Machine

/-- A step that answers a next state: a faulted core stays, an illegal word faults, or the decoded
instruction runs and the cycle ends. -/
theorem step_next (s t : State) (h : step s = .next t) : s.started = true ∧
    ((∃ r, s.fault = some r ∧ t = s.stayFaulted r) ∨
     (s.fault = none ∧ decode s.fetchWord = none ∧ t = s.decodeFailure s.fetchWord) ∨
     (s.fault = none ∧
       ∃ i u, decode s.fetchWord = some i ∧ exec i s = .next u ∧ t = u.endCycle)) := by
  unfold step State.ready at h
  split at h
  · refine ⟨‹_›, ?_⟩
    split at h
    · cases h; exact .inl ⟨_, ‹_›, rfl⟩
    · refine .inr ?_
      split at h
      · cases h; exact .inl ⟨‹_›, ‹_›, rfl⟩
      · rename_i i _
        split at h
        · cases h; exact .inr ⟨‹_›, i, _, ‹_›, ‹_›, rfl⟩
        · cases h
        · cases h
  · cases h

/-- A push: either there was room and the latch is untouched, or the stack was full and only the fault
is taken. -/
theorem State.pushJump_cases (s : State) (ra target word : Word) :
    (s.sp.val < 16 ∧ (s.pushJump ra target word).fault = s.fault) ∨
      (s.sp.val = 16 ∧ s.pushJump ra target word = s.raise .stackOverflow word) := by
  by_cases h : s.sp.val < 16
  · left; rw [s.pushJump_of_lt _ _ _ h]; exact ⟨h, rfl⟩
  · right; have := s.sp.isLt; exact ⟨by omega, s.pushJump_full _ _ _ (by omega)⟩

/-- A pop: either an entry was popped and the latch is untouched, or the stack was empty and only the
fault is taken. -/
theorem State.popJump_cases (s : State) (word : Word) :
    (0 < s.sp.val ∧ (s.popJump word).fault = s.fault) ∨
      (s.sp.val = 0 ∧ s.popJump word = s.raise .stackUnderflow word) := by
  by_cases h : 0 < s.sp.val
  · left; rw [s.popJump_of_pos _ h]; exact ⟨h, rfl⟩
  · right; exact ⟨by omega, s.popJump_empty _ (by omega)⟩

/-- Initialize keeps memory canonical. -/
theorem State.memoryWf_initializeCore (s : State) (h : s.memoryWf = true) :
    s.initializeCore.memoryWf = true := by
  simp only [State.memoryWf, Bool.and_eq_true, List.all_eq_true] at *
  refine ⟨risingCells_filter _ _ h.1, fun c hc => ?_⟩
  obtain ⟨hm, h80⟩ := List.mem_filter.mp hc
  rw [State.glyphByte_above _ _ (of_decide_eq_true h80)]
  exact ⟨(h.2 c hm).1, rfl⟩

/-- Memory at creation is the power-on memory in every cell, the glyph table not yet written (R323). -/
theorem State.read_powerOn (a : Nat) :
    State.powerOn.read a = Config.powerOnMemory (cellIndex a) :=
  State.powerOn.unlisted_not_started rfl _

/-- The state after reset is Initialize at power-on (R38, R320). -/
theorem initializeCore_powerOn : State.powerOn.initializeCore = State.reset := rfl

end Sys2Proof.Machine
end

