-- ==== Sys2Proof/Tests/Slice0.lean ====
section
/-! SUPPORT. The model's own tests. Expected results are from spec/95_test_vectors.md (vector ids in the
names or comments) and from the encodings of 30_encoding.md R95, written out bit by bit; and a witness
for the hypotheses of each statement that has any. -/

namespace Sys2Proof.Tests

open Sys2Proof.Machine

/-! ### WellFormed smoke: an ill-formed operand for each check -/

theorem test_register_16_refused : registerInRange 16 = false := by decide
theorem test_immediate_256_refused : immediateInRange 256 = false := by decide
theorem test_address_4096_refused : addressInRange 4096 = false := by decide
theorem test_row_count_16_refused : rowCountInRange 16 = false := by decide
theorem test_wellFormed_accepts_largest : (Instr.drw 15 15 15).wellFormed = true := by decide

/-! ### Decode: one word per constructor, bit by bit from R95 -/

theorem test_decode_cls : decode 0b0000000011100000 = some .cls := by decide
theorem test_decode_ret : decode 0b0000000011101110 = some .ret := by decide
theorem test_decode_jp : decode 0b0001_0100_0000_0001 = some (.jp 0x401) := by decide
theorem test_decode_call : decode 0b0010_0011_0100_0101 = some (.call 0x345) := by decide
theorem test_decode_seVB : decode 0b0011_0001_0100_0010 = some (.seVB 1 0x42) := by decide
theorem test_decode_sneVB : decode 0b0100_0001_0100_0010 = some (.sneVB 1 0x42) := by decide
theorem test_decode_seVV : decode 0b0101_0001_0010_0000 = some (.seVV 1 2) := by decide
theorem test_decode_ldVB : decode 0b0110_1111_0100_0010 = some (.ldVB 15 0x42) := by decide
theorem test_decode_addVB : decode 0b0111_0010_0000_0001 = some (.addVB 2 0x01) := by decide
theorem test_decode_ldVV : decode 0b1000_0011_0100_0000 = some (.ldVV 3 4) := by decide
theorem test_decode_orVV : decode 0b1000_0011_0100_0001 = some (.orVV 3 4) := by decide
theorem test_decode_andVV : decode 0b1000_0011_0100_0010 = some (.andVV 3 4) := by decide
theorem test_decode_xorVV : decode 0b1000_0011_0100_0011 = some (.xorVV 3 4) := by decide
theorem test_decode_addVV : decode 0b1000_0001_0010_0100 = some (.addVV 1 2) := by decide
theorem test_decode_sub : decode 0b1000_0001_0010_0101 = some (.sub 1 2) := by decide
theorem test_decode_shr : decode 0b1000_0001_0010_0110 = some (.shr 1 2) := by decide
theorem test_decode_subn : decode 0b1000_0001_0010_0111 = some (.subn 1 2) := by decide
theorem test_decode_shl : decode 0b1000_0001_0010_1110 = some (.shl 1 2) := by decide
theorem test_decode_sneVV : decode 0b1001_0001_0010_0000 = some (.sneVV 1 2) := by decide
theorem test_decode_ldI : decode 0b1010_0001_0010_0011 = some (.ldI 0x123) := by decide
theorem test_decode_jpV0 : decode 0b1011_0011_0000_0001 = some (.jpV0 0x301) := by decide
theorem test_decode_rnd : decode 0b1100_0001_0000_1111 = some (.rnd 1 0x0F) := by decide
theorem test_decode_drw : decode 0b1101_0001_0010_0101 = some (.drw 1 2 5) := by decide
theorem test_decode_skp : decode 0b1110_0001_1001_1110 = some (.skp 1) := by decide
theorem test_decode_sknp : decode 0b1110_0001_1010_0001 = some (.sknp 1) := by decide
theorem test_decode_ldVDT : decode 0b1111_0001_0000_0111 = some (.ldVDT 1) := by decide
theorem test_decode_ldVK : decode 0b1111_0011_0000_1010 = some (.ldVK 3) := by decide
theorem test_decode_ldDTV : decode 0b1111_0001_0001_0101 = some (.ldDTV 1) := by decide
theorem test_decode_ldSTV : decode 0b1111_0001_0001_1000 = some (.ldSTV 1) := by decide
theorem test_decode_addIV : decode 0b1111_0001_0001_1110 = some (.addIV 1) := by decide
theorem test_decode_ldFV : decode 0b1111_0001_0010_1001 = some (.ldFV 1) := by decide
theorem test_decode_ldBV : decode 0b1111_0001_0011_0011 = some (.ldBV 1) := by decide
theorem test_decode_ldMemV : decode 0b1111_0010_0101_0101 = some (.ldMemV 2) := by decide
theorem test_decode_ldVMem : decode 0b1111_0010_0110_0101 = some (.ldVMem 2) := by decide

/-- Vectors E1–E13. -/
theorem test_decode_illegal : decode 0x0000 = none ∧ decode 0x0123 = none ∧ decode 0x00E1 = none ∧
    decode 0x00FF = none ∧ decode 0x5121 = none ∧ decode 0x912F = none ∧ decode 0x8128 = none := by
  decide
theorem test_decode_illegal_high : decode 0x812F = none ∧ decode 0xE19F = none ∧
    decode 0xE100 = none ∧ decode 0xF100 = none ∧ decode 0xF108 = none ∧ decode 0xF1FF = none := by
  decide

theorem test_decodeBytes_big_endian :
    decodeBytes [0x81, 0x2E, 0x77] = .instr (.shl 1 2) [0x77] := by decide
theorem test_decodeBytes_truncated : decodeBytes [0x81] = .truncated := by decide
theorem test_decodeBytes_invalid : decodeBytes [0x51, 0x21] = .invalid 0x5121 := by decide

/-! ### Small states -/

/-- The reset state with some registers set. -/
def withRegs (vs : List (Nibble × Byte)) : State :=
  vs.foldl (fun s v => s.setReg v.1 v.2) State.reset

/-- A state with bytes from an address on. -/
def withBytes (a : Nat) (vs : List Byte) (s : State) : State :=
  ((s.setIndex (BitVec.ofNat 16 a)).storeFrom 0 vs)

/-- The state after one step of a state with this word at its `pc`. -/
def after (w : Nat) (s : State) : State :=
  match step (s.withFetchWord 16 w) with
  | .next t => t
  | .fault _ => s
  | .refused _ => s

/-- The default parameters with `KEYWAIT_MODE = block`. -/
def blocking : State := { State.reset with config := { Config.default with keywaitMode := .block } }

/-- A state with some keys pressed. -/
def press (ks : List Nat) (s : State) : State :=
  { s with keypad := Vector.ofFn fun i : Fin 16 => ks.contains i.val }

/-! ### ALU vectors -/

theorem test_A1_ldVB : (after 0x6105 (withRegs [(1, 0xAB)])).reg 1 = 0x05 := by decide
theorem test_A3_addVB_no_flag : let t := after 0x7201 (withRegs [(2, 0xFF)])
    t.reg 2 = 0x00 ∧ t.reg 15 = 0x00 ∧ t.pc = 0x202 := by decide
theorem test_A6_ldVV : (after 0x8340 (withRegs [(3, 0x10), (4, 0x20)])).reg 3 = 0x20 := by decide
theorem test_A7_orVV : let t := after 0x8341 (withRegs [(3, 0x0F), (4, 0xF0), (15, 0x05)])
    t.reg 3 = 0xFF ∧ t.reg 15 = 0x05 := by decide
theorem test_A8_andVV : (after 0x8342 (withRegs [(3, 0x3C), (4, 0x0F)])).reg 3 = 0x0C := by decide
theorem test_A9_xorVV : (after 0x8343 (withRegs [(3, 0xFF), (4, 0x0F)])).reg 3 = 0xF0 := by decide
theorem test_A18_addVV_x15 : (after 0x8F14 (withRegs [(15, 0xF0), (1, 0x20)])).reg 15 = 0x10 := by
  decide
theorem test_A19_addVV_y15 : let t := after 0x81F4 (withRegs [(1, 0xFF), (15, 0x01)])
    t.reg 1 = 0x00 ∧ t.reg 15 = 0x01 := by decide
theorem test_A22_sub_equal : let t := after 0x8125 (withRegs [(1, 7), (2, 7), (15, 1)])
    t.reg 1 = 0x00 ∧ t.reg 15 = 0x00 := by decide
/-- A24, A25, A26. -/
theorem test_A24_sub_x15_y15 : (after 0x8F15 (withRegs [(15, 0x10), (1, 3)])).reg 15 = 0xFE ∧
    (after 0x81F5 (withRegs [(1, 0x10), (15, 3)])).reg 1 = 0x0F ∧
    (after 0x8FF5 (withRegs [(15, 9)])).reg 15 = 0x00 := by decide
theorem test_A28_shr_ignores_y : let t := after 0x8126 (withRegs [(1, 4), (2, 0xFF), (15, 1)])
    t.reg 1 = 0x02 ∧ t.reg 15 = 0x00 ∧ t.reg 2 = 0xFF := by decide
theorem test_A29_shr_x15 : (after 0x8F06 (withRegs [(15, 0xFF)])).reg 15 = 0x00 := by decide
theorem test_A31_subn : let t := after 0x8127 (withRegs [(1, 5), (2, 3)])
    t.reg 1 = 0xFE ∧ t.reg 15 = 0x00 := by decide
/-- A33, A34. -/
theorem test_A33_subn_x15_y15 : (after 0x8F17 (withRegs [(15, 2), (1, 0x10)])).reg 15 = 0x0F ∧
    (after 0x81F7 (withRegs [(1, 3), (15, 0x10)])).reg 1 = 0xFE := by decide
theorem test_A35_shl : let t := after 0x810E (withRegs [(1, 0x81)])
    t.reg 1 = 0x02 ∧ t.reg 15 = 0x01 := by decide
theorem test_A37_shl_x15 : (after 0x8F0E (withRegs [(15, 0x80)])).reg 15 = 0x02 := by decide
/-- The draw is free: only the frame of `Cxkk` has expected values (R192). -/
theorem test_rnd_takes_one_draw : let t := after 0xC10F State.reset
    t.draws = 1 ∧ t.pc = 0x202 ∧ t.reg 2 = 0 := by decide

/-! ### Control-flow vectors -/

theorem test_B1_ret :
    let s : State := { State.reset with pc := 0x300, sp := 1, stack := State.reset.stack.set 0 0x204 }
    let t := after 0x00EE s
    t.pc = 0x204 ∧ t.sp = 0 ∧ t.stack[0] = 0x204 ∧ t.fault = none := by decide
theorem test_B2_ret_empty : let t := after 0x00EE { State.reset with pc := 0x300 }
    t.fault = some ⟨.stackUnderflow, 0x300, 0x00EE⟩ ∧ t.pc = 0x300 ∧
      t.result = some (.faulted ⟨.stackUnderflow, 0x300, 0x00EE⟩) := by decide
theorem test_B4_jp : (after 0x1400 State.reset).pc = 0x400 := by decide
theorem test_B6_jp_odd : let t := after 0x1333 State.reset
    t.pc = 0x333 ∧ t.fault = none := by decide
theorem test_B10_call_top : let t := after 0x2345 { State.reset with pc := 0xFFE }
    t.pc = 0x345 ∧ t.sp = 1 ∧ t.stack[0] = 0x1000 := by decide
theorem test_B9_call_full : let t := after 0x2345 { State.reset with pc := 0x400, sp := 16 }
    t.fault = some ⟨.stackOverflow, 0x400, 0x2345⟩ ∧ t.pc = 0x400 ∧ t.sp = 16 := by decide
theorem test_B11_seVB : (after 0x3142 (withRegs [(1, 0x42)])).pc = 0x204 := by decide
theorem test_B12_seVB_not : (after 0x3142 (withRegs [(1, 0x41)])).pc = 0x202 := by decide
theorem test_B13_sneVB : (after 0x4142 (withRegs [(1, 0x42)])).pc = 0x202 := by decide
theorem test_B14_sneVB : (after 0x4142 (withRegs [(1, 0x41)])).pc = 0x204 := by decide
theorem test_B15_seVV : (after 0x5120 (withRegs [(1, 9), (2, 9)])).pc = 0x204 := by decide
theorem test_B16_seVV_not : (after 0x5120 (withRegs [(1, 9), (2, 8)])).pc = 0x202 := by decide
theorem test_B17_sneVV_not : (after 0x9120 (withRegs [(1, 9), (2, 9)])).pc = 0x202 := by decide
theorem test_B18_sneVV : (after 0x9120 (withRegs [(1, 9), (2, 8)])).pc = 0x204 := by decide
theorem test_B20_jpV0 : (after 0xBFFF (withRegs [(0, 0xFF)])).pc = 0x10FE := by decide
/-- B23: the word is fetched across the top of memory. -/
theorem test_B23_fetch_wraps :
    (({ State.reset with pc := 0xFFF }.write 0xFFF 0x12).write 0x000 0x34).fetchWord = 0x1234 := by
  decide

/-! ### Display vectors -/

theorem test_D1_cls : let t := after 0x00E0 { State.reset with fb := flipPixel blankFb 63 31 }
    t.fb = blankFb ∧ t.pc = 0x202 := by decide +kernel
theorem test_D3_drw_wraps_and_hits : let s := withBytes 0x300 [0xC0] (withRegs [(1, 63)])
    let t := after 0xD121 { s with fb := flipPixel blankFb 63 0 }
    t.pixel 63 0 = false ∧ t.pixel 0 0 = true ∧ t.reg 15 = 1 ∧ t.pc = 0x202 := by decide +kernel
/-- D7: the column is the old `V[15]`. -/
theorem test_D7_drw_x15 : let s := withBytes 0x300 [0x80] (withRegs [(15, 10), (2, 3)])
    let t := after 0xDF21 { s with fb := flipPixel blankFb 10 3 }
    t.pixel 10 3 = false ∧ t.reg 15 = 1 := by decide +kernel

/-! ### Index and memory vectors -/

theorem test_C1_ldI : (after 0xA123 State.reset).index = 0x0123 := by decide
theorem test_C3_addIV : let t := after 0xF11E ((withRegs [(1, 1)]).setIndex 0x0F00)
    t.index = 0x0F01 ∧ t.reg 15 = 1 := by decide
theorem test_C5_addIV_wraps : let t := after 0xF11E ((withRegs [(1, 2)]).setIndex 0xFFFF)
    t.index = 0x0001 ∧ t.reg 15 = 0 := by decide
theorem test_C9_ldFV : (after 0xF129 (withRegs [(1, 0xFF)])).index = 0x04FB := by decide
theorem test_C10_ldBV : let t := after 0xF033 ((withRegs [(0, 234)]).setIndex 0x300)
    t.read 0x300 = 2 ∧ t.read 0x301 = 3 ∧ t.read 0x302 = 4 ∧ t.index = 0x300 := by decide
theorem test_C13_ldBV_wraps : let t := after 0xF033 ((withRegs [(0, 123)]).setIndex 0xFFE)
    t.read 0xFFE = 1 ∧ t.read 0xFFF = 2 ∧ t.read 0x000 = 3 := by decide
theorem test_C14_ldMemV : let t := after 0xF255 ((withRegs [(0, 1), (1, 2), (2, 3)]).setIndex 0x300)
    t.read 0x300 = 1 ∧ t.read 0x302 = 3 ∧ t.index = 0x300 := by decide
theorem test_C16_ldMemV_wraps : let t := after 0xF155 ((withRegs [(0, 0xAA), (1, 0xBB)]).setIndex 0xFFF)
    t.read 0xFFF = 0xAA ∧ t.read 0x000 = 0xBB := by decide
theorem test_C17_ldVMem : let t := after 0xF265 (withBytes 0x300 [5, 6, 7] State.reset)
    t.reg 0 = 5 ∧ t.reg 2 = 7 ∧ t.reg 3 = 0 ∧ t.index = 0x300 := by decide

/-! ### Keys and timers vectors -/

theorem test_K2_skp_not : (after 0xE19E (withRegs [(1, 5)])).pc = 0x202 := by decide
theorem test_K5_skp_low_nibble : (after 0xE19E (press [5] (withRegs [(1, 0x15)]))).pc = 0x204 := by
  decide
theorem test_K3_sknp_not : (after 0xE1A1 (press [5] (withRegs [(1, 5)]))).pc = 0x202 := by decide
theorem test_K4_sknp : (after 0xE1A1 (withRegs [(1, 5)])).pc = 0x204 := by decide
theorem test_K6_ldVDT : let t := after 0xF107 { State.reset with dt := 0x20 }
    t.reg 1 = 0x20 ∧ t.dt = 0x1F := by decide
theorem test_K8_ldDTV : (after 0xF115 (withRegs [(1, 10)])).dt = 9 := by decide
theorem test_K10_ldSTV_tone : let t := after 0xF118 (withRegs [(1, 1)])
    t.st = 0 ∧ t.result = some (.ok true) := by decide
theorem test_K12_ldSTV_no_tone : let t := after 0xF118 { State.reset with st := 1 }
    t.st = 0 ∧ t.result = some (.ok false) := by decide
theorem test_K13_ldVK_noop : let t := after 0xF30A (press [3] (withRegs [(3, 0x55)]))
    t.reg 3 = 0x55 ∧ t.pc = 0x202 := by decide
/-- K14, K15. -/
theorem test_K14_ldVK_block : let t := after 0xF30A { blocking with dt := 4, st := 2 }
    t.pc = 0x200 ∧ t.dt = 3 ∧ t.st = 1 ∧ (after 0xF30A (press [9, 4] blocking)).reg 3 = 4 ∧
      (after 0xF30A (press [9, 4] blocking)).pc = 0x202 := by decide

/-! ### Faults, reset and the host -/

theorem test_T4_fault_counts_no_timer : let t := after 0x0000 { State.reset with dt := 5, st := 1 }
    t.fault = some ⟨.decodeFailure, 0x200, 0x0000⟩ ∧ t.dt = 5 ∧ t.st = 1 := by decide
/-- T5: a second step changes nothing. -/
theorem test_T5_sticky : let t := after 0x0000 { State.reset with dt := 5, st := 1 }
    step t = .next t := rfl
/-- R323, R320: the first Initialize turns a byte left at `0x000` into the glyph byte, one at `0x300`
stays. -/
theorem test_power_on_glyphs : let s := (State.powerOn.write 0x000 0xAA).write 0x300 0xBB
    s.read 0x000 = 0xAA ∧ s.initializeCore.read 0x000 = 0xF0 ∧ s.initializeCore.read 0x300 = 0xBB := by
  decide
theorem test_H7_step_refused : step State.powerOn = .refused .beforeReset := rfl
theorem test_H4_too_long : transact (.load (List.replicate 3585 0)) State.reset =
    .refused .loadTooLong := by
  simp only [transact, loadProgram, imageSize, List.length_replicate]
  rfl
theorem test_H2_key_16_ignored : transact (.key 16 true) State.reset = .next State.reset := rfl
/-- H8: a byte stored at `0x100` survives a LoadProgram, one stored in the glyph table does not. -/
theorem test_H8_reserved_survives :
    let t := ((State.reset.write 0x100 0xAA).write 0x000 0xAA).copyImage [0x61, 0x05] |>.initializeCore
    t.read 0x100 = 0xAA ∧ t.read 0x000 = 0xF0 ∧ t.read 0x200 = 0x61 ∧ t.read 0x201 = 0x05 ∧
      t.read 0x202 = 0x00 := by decide +kernel
/-- R37: glyph A stands at `0x032`. -/
theorem test_glyph_A : (List.range 5).map (fun k => State.reset.read (0x032 + k)) =
    [0xF0, 0x90, 0xF0, 0x90, 0x90] := by decide
/-- Writing a glyph cell's own byte lists nothing; writing another byte and then its own takes the cell
off the list again. -/
theorem test_write_canonical : ((State.reset.write 0 0x11).write 0 0xF0).memory = [] ∧
    ((State.reset.write 0x300 1).write 0x200 2).memory = [(0x200, 2), (0x300, 1)] := by decide
theorem test_table_word : decodeTableWord 16 0x8126 = some (.shr 1 2) := by decide
theorem test_core_step : Sys2Proof.core.step State.powerOn = .refused .beforeReset := rfl

/-! ### Witnesses: a state and operands that meet a statement's hypotheses together -/

/-- A live state whose next step runs this word. -/
def live (w : Nat) : State := State.reset.withFetchWord 16 w

theorem test_live (w : Nat) : (live w).Live := ⟨rfl, rfl⟩

/-- StepRunsDecodedInstruction, TimersCountDownEachStep: also with a timer at 0 and one at 255. -/
theorem test_witness_step_runs :
    let s := { live 0x6005 with dt := 0, st := 255 }
    s.Live ∧ decode s.fetchWord = some (.ldVB 0 5) ∧
      exec (.ldVB 0 5) s = .next (s.setReg 0 5).advance ∧ (s.setReg 0 5).advance.fault = none :=
  ⟨⟨rfl, rfl⟩, by decide, rfl, rfl⟩
/-- StepRunsDecodedInstruction, the clause of a step that raised a fault. -/
theorem test_witness_step_faults : decode (live 0x00EE).fetchWord = some .ret ∧
    exec .ret (live 0x00EE) = .next ((live 0x00EE).raise .stackUnderflow 0x00EE) ∧
    ((live 0x00EE).raise .stackUnderflow 0x00EE).fault = some ⟨.stackUnderflow, 0x200, 0x00EE⟩ :=
  ⟨by decide, rfl, rfl⟩
theorem test_witness_sound_write :
    (live 0xF118).Live ∧ decode (live 0xF118).fetchWord = some (.ldSTV 1) := ⟨⟨rfl, rfl⟩, by decide⟩
theorem test_witness_illegal : (live 0x0000).Live ∧ decode (live 0x0000).fetchWord = none :=
  ⟨⟨rfl, rfl⟩, by decide⟩
theorem test_live_inv (w : Nat) (h : (live w).memoryWf = true) : Inv (live w) :=
  ⟨h, (by intro r h; cases h), (by intro r; constructor <;> intro h <;> cases h)⟩
theorem test_witness_faulted : let s := (live 0x0000).decodeFailure 0x0000
    s.started = true ∧ Inv s ∧ s.fault = some ⟨.decodeFailure, 0x200, 0x0000⟩ :=
  ⟨rfl, ⟨by decide, (by intro r h; cases h; exact ⟨rfl, by decide, by decide⟩),
    (by intro r; constructor <;> intro h <;> cases h <;> rfl)⟩, rfl⟩
theorem test_witness_before_reset : State.powerOn.started = false ∧ State.reset.started = true := ⟨rfl, rfl⟩
theorem test_witness_placed_word : decodeTableWord 16 0xFF65 = some (.ldVMem 15) := by decide
/-- ReturnPopsAddress at both ends of the stack, EmptyReturnUnderflows. -/
theorem test_witness_return : ({ State.reset with sp := 1 } : State).sp.val = (0 : Fin 16).val + 1 ∧
    ({ State.reset with sp := 16 } : State).sp.val = (15 : Fin 16).val + 1 ∧
    State.reset.sp.val = 0 := by decide
/-- CallPushesReturnAddress and ReturnAfterCallComesBack at both ends, FullCallOverflows. -/
theorem test_witness_call : State.reset.sp.val = (0 : Fin 16).val ∧
    ({ State.reset with sp := 15 } : State).sp.val = (15 : Fin 16).val ∧
    ({ State.reset with sp := 15 } : State).sp.val < 16 ∧
    ({ State.reset with sp := 16 } : State).sp.val = 16 := by decide
/-- AddSetsCarry, SubtractAfterFlag, SubtractReversedAfterFlag, ShiftsByOne, DrawTwiceRestores: a
register that is 15 and ones that are not. -/
theorem test_witness_registers : (0 : Nibble) ≠ 15 ∧ (14 : Nibble) ≠ 15 ∧ (15 : Nibble) = 15 := by decide
theorem test_witness_masks : (0xFF : Byte) = 0xFF ∧ (0 : Byte) = 0 ∧ (0 : Nibble) = 0 := by decide
theorem test_witness_store_next : let s := State.reset.setIndex 0x202
    1 ≤ (1 : Nibble).toNat ∧ s.index = s.pc + 2 := by decide
/-- FetchIsBigEndian: the top of memory, also with a `pc` above it. -/
theorem test_witness_fetch_top : (State.reset.jump 0xFFF).pc.toNat % 4096 = 0xFFF ∧
    (State.reset.jump 0x1FFF).pc.toNat % 4096 = 0xFFF := by decide
theorem test_witness_read_delay :
    (live 0xF107).Live ∧ decode (live 0xF107).fetchWord = some (.ldVDT 1) := ⟨⟨rfl, rfl⟩, by decide⟩
theorem test_witness_delay_write :
    (live 0xF115).Live ∧ decode (live 0xF115).fetchWord = some (.ldDTV 1) := ⟨⟨rfl, rfl⟩, by decide⟩
theorem test_witness_keywait_noop : State.reset.config.keywaitMode = .noop := rfl
/-- KeyWaitByMode: the lowest key 0, the highest key 15, and none. -/
theorem test_witness_keywait_block : blocking.config.keywaitMode = .block ∧
    (press [0, 15] blocking).keyDown 0 = true ∧
    ((press [15] blocking).keyDown 15 = true ∧
      (List.range 15).all (fun j => !(press [15] blocking).keyDown j) = true) ∧
    (List.range 16).all (fun j => !blocking.keyDown j) = true := by decide
theorem test_witness_encode : (Instr.drw 15 0 15).wellFormed = true ∧
    decode 0xDF0F = some (.drw 15 0 15) := by decide
theorem test_witness_image_sizes : (List.replicate 3584 (0 : Byte)).length ≤ 3584 ∧
    3584 < (List.replicate 3585 (0 : Byte)).length := by
  simp only [List.length_replicate]
  decide
/-- SetKeyChangesOneFlag: the last key and the first one ignored. -/
theorem test_witness_set_key : State.reset.started = true ∧
    (match setKey 15 true State.reset with | .next t => t.keyDown 15 | _ => false) = true ∧
    16 ≤ 16 := by decide
theorem test_witness_pixel_range : 63 < 64 ∧ 31 < 32 := by decide
theorem test_witness_step_keeps_inv : Inv (live 0x6005) ∧ ∃ t, step (live 0x6005) = .next t :=
  ⟨test_live_inv _ (by decide), _, rfl⟩
theorem test_witness_transactions : Inv (live 0x6005) ∧
    (∃ t, loadProgram [0x60, 0x05] (live 0x6005) = .next t) ∧
    ∃ t, setKey 15 true (live 0x6005) = .next t :=
  ⟨test_live_inv _ (by decide), ⟨_, rfl⟩, _, rfl⟩
/-- AccessTableWrites, RegistersWrittenByNamedOnly, KeypadHiddenFromOthers: one instruction meets them,
its neighbours the clauses left. -/
theorem test_witness_access : exec (.jp 0x400) State.reset = .next (State.reset.jump 0x400) ∧
    writesIndex (.jp 0x400) = false ∧ writesStack (.jp 0x400) = false ∧
    writesSp (.jp 0x400) = false ∧ writesDelay (.jp 0x400) = false ∧
    writesSound (.jp 0x400) = false ∧ writesFb (.jp 0x400) = false ∧
    writesMemory (.jp 0x400) = false ∧ takesDraw (.jp 0x400) = false ∧
    writesReg (.jp 0x400) 15 = false ∧ readsKeypad (.jp 0x400) = false ∧
    writesReg (.ldVMem 14) 15 = false ∧ writesReg (.addVV 1 2) 2 = false :=
  ⟨rfl, by decide⟩
/-- StackPointerMovesByOne: a step that moves it, and one that faults. -/
theorem test_witness_stack_pointer : (after 0x2345 State.reset).sp = 1 ∧
    (after 0x00EE State.reset).fault = some ⟨.stackUnderflow, 0x200, 0x00EE⟩ := by decide
theorem test_witness_parked : (live 0x1200).Parked := ⟨⟨rfl, rfl⟩, 0x200, by decide, by decide⟩

end Sys2Proof.Tests
end

section
/-! The display family (40_display.md R131–R134): what `00E0` leaves on the screen, and the collision
flag of `Dxyn`. -/

namespace Sys2Proof.Machine

@[simp] theorem pixelAt_blankFb (px py : Nat) : pixelAt blankFb px py = false := by
  simp [pixelAt, blankFb]

@[simp] theorem State.pixel_setFb (s : State) (f : Framebuffer) (px py : Nat) :
    (s.setFb f).pixel px py = pixelAt f px py := rfl

/-- Every pixel has its place on the screen (R130). -/
theorem State.pixel_mod (s : State) (px py : Nat) :
    s.pixel (px % 64) (py % 32) = s.pixel px py :=
  pixelAt_congr s.fb (Nat.mod_mod _ _) (Nat.mod_mod _ _)

/-- A pixel set in one state and unset in another, at any coordinates, is one on the screen. -/
theorem exists_set_unset_onScreen (s t : State) :
    (∃ px py, px < 64 ∧ py < 32 ∧ s.pixel px py = true ∧ t.pixel px py = false) ↔
      ∃ px py, s.pixel px py = true ∧ t.pixel px py = false := by
  constructor
  · rintro ⟨px, py, -, -, hset, hunset⟩
    exact ⟨px, py, hset, hunset⟩
  · rintro ⟨px, py, hset, hunset⟩
    exact ⟨px % 64, py % 32, Nat.mod_lt _ (by decide), Nat.mod_lt _ (by decide),
      (s.pixel_mod px py).trans hset, (t.pixel_mod px py).trans hunset⟩

/-- What `Dxyn` does to the screen and the flag (R132–R134): the covered pixels are turned over, and
the flag says whether one of them was set. -/
theorem exec_drw_pixels_flag (s : State) (x y n : Nibble) :
    ∃ (t : State) (hit : Bool), exec (.drw x y n) s = .next t ∧ t.reg 15 = b2u hit ∧
      (∀ px py, t.pixel px py =
        (s.pixel px py ^^ spriteCovers s (s.reg x).toNat (s.reg y).toNat n.toNat px py)) ∧
      (hit = true ↔ ∃ px py, s.pixel px py = true ∧
        spriteCovers s (s.reg x).toNat (s.reg y).toNat n.toNat px py = true) := by
  obtain ⟨hpixels, hhit⟩ := s.drawSprite_spec (s.reg x).toNat (s.reg y).toNat n.toNat
    (by have := n.isLt; omega)
  refine ⟨_, _, rfl, ?_, ?_, hhit⟩
  · simp [State.reg_setFlag]
  · simpa using hpixels

/-- Settles O27: a covered pixel that was set is one that goes from set to unset, and no other does. -/
theorem collisionIsSetToUnset : Obligations.CollisionIsSetToUnset := by
  intro s x y n
  obtain ⟨t, hit, hexec, hflag, hpixels, hhit⟩ := exec_drw_pixels_flag s x y n
  refine ⟨t, hexec, ?_, ?_⟩
  · cases hit
    · exact .inl hflag
    · exact .inr hflag
  · rw [hflag, b2u_eq_one, hhit, exists_set_unset_onScreen]
    refine exists₂_congr fun px py => and_congr_right fun hset => ?_
    simp [hpixels, hset]

/-- Settles O25: the blank framebuffer has every pixel clear, and `00E0` sets nothing else but `pc`. -/
theorem clearScreenClearsAll : Obligations.ClearScreenClearsAll := by
  intro s
  refine ⟨by decide, (s.setFb blankFb).advance, rfl, ?_, rfl, rfl, ?_⟩
  · intro px py
    simp
  · intro a
    simp

end Sys2Proof.Machine
end

section
/-! The control-flow family (41_flow.md R151, R153, R154): the absolute jump and the skips on an
immediate, their words and what they leave unchanged. -/

namespace Sys2Proof.Machine

/-- A jump changes `pc` only. -/
theorem State.onlyPc_jump (s : State) (w : Word) : OnlyPc s (s.jump w) := ⟨rfl, s.read_jump w⟩

/-- A skip is a jump over the next word or to it. -/
theorem State.onlyPc_skipIf (s : State) (c : Bool) : OnlyPc s (s.skipIf c) := s.onlyPc_jump _

theorem decode_wordA_jp (nnn : Addr) : decode (wordA 0x1 nnn) = some (.jp nnn) := by
  simp [decode]

theorem decode_wordXKK_seVB (x : Nibble) (kk : Byte) :
    decode (wordXKK 0x3 x kk) = some (.seVB x kk) := by
  simp [decode]

theorem decode_wordXKK_sneVB (x : Nibble) (kk : Byte) :
    decode (wordXKK 0x4 x kk) = some (.sneVB x kk) := by
  simp [decode]

/-- An instruction that is a skip (R101) changes `pc` only, by 4 where its condition holds and by 2
where not. -/
theorem exec_skip_spec (s : State) (i : Instr) (c : Bool) (p : Prop) [Decidable p]
    (hexec : exec i s = .next (s.skipIf c)) (hc : c = true ↔ p) :
    ∃ t, exec i s = .next t ∧ OnlyPc s t ∧ t.pc = if p then s.pc + 4 else s.pc + 2 :=
  ⟨s.skipIf c, hexec, s.onlyPc_skipIf c, s.skipIf_pc_of_iff c p hc⟩

/-- Settles O13: `1nnn` jumps to the zero-extended `nnn`, which is the same number. -/
theorem jumpSetsPcExactly : Obligations.JumpSetsPcExactly := by
  intro s nnn
  exact ⟨decode_wordA_jp nnn, s.jump (zext16 nnn), rfl, zext16_toNat nnn, s.onlyPc_jump _⟩

/-- Settles O15: both are skips, the one on `V[x] = kk`, the other on its negation. -/
theorem immediateSkips : Obligations.ImmediateSkips := by
  intro s x kk
  refine ⟨decode_wordXKK_seVB x kk, decode_wordXKK_sneVB x kk, ?_, ?_⟩
  · exact exec_skip_spec s (.seVB x kk) (s.reg x == kk) _ rfl beq_iff_eq
  · exact exec_skip_spec s (.sneVB x kk) (s.reg x != kk) _ rfl bne_iff_ne

end Sys2Proof.Machine
end

section
/-! The ALU family (42_alu.md R181–R186): the loads, the addition of an immediate and the bitwise
operations, which write `V[x]` and no flag, their words and what they leave unchanged. -/

namespace Sys2Proof.Machine

/-! ### Their words -/

theorem decode_wordXKK_ldVB (x : Nibble) (kk : Byte) :
    decode (wordXKK 0x6 x kk) = some (.ldVB x kk) := by
  simp [decode]

theorem decode_wordXKK_addVB (x : Nibble) (kk : Byte) :
    decode (wordXKK 0x7 x kk) = some (.addVB x kk) := by
  simp [decode]

/-- In family 8 the last nibble names the operation (R96). -/
theorem decode_wordXYN_family8 (x y n : Nibble) :
    decode (wordXYN 0x8 x y n) = decodeFamily8 x y n := by
  simp [decode]

/-! ### An instruction that writes one register -/

theorem State.reg_setReg_self (s : State) (x : Nibble) (v : Byte) : (s.setReg x v).reg x = v := by
  rw [State.reg_setReg, if_pos rfl]

theorem State.sameRegsBut_setReg (s : State) (x : Nibble) (v : Byte) :
    SameRegsBut s (s.setReg x v) [x] := by
  intro r hr
  rw [State.reg_setReg, if_neg (List.ne_of_not_mem_cons hr)]

theorem State.onlyRegsPc_setReg_advance (s : State) (x : Nibble) (v : Byte) :
    OnlyRegsPc s (s.setReg x v).advance :=
  ⟨rfl, fun b => (State.read_advance _ b).trans (s.read_setReg x v b)⟩

/-- An instruction that writes `v` to `V[x]` and goes on: `V[x]` holds `v`, every other register is as
before (the flag register too, unless it is `V[x]`), `pc` goes on by 2. -/
theorem exec_setReg_spec (s : State) (i : Instr) (x : Nibble) (v : Byte)
    (hexec : exec i s = .next (s.setReg x v).advance) :
    ∃ t, exec i s = .next t ∧ t.reg x = v ∧ SameRegsBut s t [x] ∧ t.pc = s.pc + 2 ∧
      OnlyRegsPc s t :=
  ⟨_, hexec, s.reg_setReg_self x v, s.sameRegsBut_setReg x v, rfl, s.onlyRegsPc_setReg_advance x v⟩

/-- An instruction that writes to `V[x]` a byte whose bits are `f` of the old bits of `V[x]` and
`V[y]`. -/
theorem exec_bitwise_spec (s : State) (i : Instr) (x y : Nibble) (v : Byte)
    (f : Bool → Bool → Bool) (hexec : exec i s = .next (s.setReg x v).advance)
    (hv : ∀ b, v.getLsbD b = f ((s.reg x).getLsbD b) ((s.reg y).getLsbD b)) :
    ∃ t, exec i s = .next t ∧ SameRegsBut s t [x] ∧ t.pc = s.pc + 2 ∧ OnlyRegsPc s t ∧
      ∀ b, b < 8 → (t.reg x).getLsbD b = f ((s.reg x).getLsbD b) ((s.reg y).getLsbD b) := by
  obtain ⟨t, ht, hval, hregs, hpc, honly⟩ := exec_setReg_spec s i x v hexec
  exact ⟨t, ht, hregs, hpc, honly, fun b _ => hval.symm ▸ hv b⟩

/-! ### The obligations -/

/-- Settles O17: both loads are one register write, of `kk` and of the old `V[y]`. -/
theorem loadImmediateAndCopy : Obligations.LoadImmediateAndCopy := by
  intro s x y kk
  refine ⟨decode_wordXKK_ldVB x kk, decode_wordXYN_family8 x y 0, ?_, ?_⟩
  · exact exec_setReg_spec s (.ldVB x kk) x kk rfl
  · exact exec_setReg_spec s (.ldVV x y) x (s.reg y) rfl

/-- Settles O18: one register write, of the exact sum kept in a byte, which is its value modulo 256. -/
theorem addImmediateWritesNoFlag : Obligations.AddImmediateWritesNoFlag := by
  intro s x kk
  obtain ⟨t, ht, hval, hframe⟩ :=
    exec_setReg_spec s (.addVB x kk) x (narrowSum (exactSum (s.reg x) kk)) rfl
  exact ⟨decode_wordXKK_addVB x kk, t, ht, hval ▸ narrowSum_toNat _, hframe⟩

/-- Settles O19: each is one register write, of a byte formed bit by bit from the old operands. -/
theorem bitwiseOperations : Obligations.BitwiseOperations := by
  intro s x y
  refine ⟨decode_wordXYN_family8 x y 1, decode_wordXYN_family8 x y 2, decode_wordXYN_family8 x y 3,
    ?_, ?_, ?_⟩
  · exact exec_bitwise_spec s (.orVV x y) x y (s.reg x ||| s.reg y) or rfl
      fun _ => BitVec.getLsbD_or
  · exact exec_bitwise_spec s (.andVV x y) x y (s.reg x &&& s.reg y) and rfl
      fun _ => BitVec.getLsbD_and
  · exact exec_bitwise_spec s (.xorVV x y) x y (s.reg x ^^^ s.reg y) xor rfl
      fun _ => BitVec.getLsbD_xor

end Sys2Proof.Machine
end

section
/-! The index family (43_index_memory.md R220): the load of `I` with an address, its word and what it
leaves unchanged. -/

namespace Sys2Proof.Machine

theorem decode_wordA_ldI (nnn : Addr) : decode (wordA 0xA nnn) = some (.ldI nnn) := by
  simp [decode]

/-- An instruction that writes `I` and goes on changes no byte of memory. -/
theorem State.sameBytes_setIndex_advance (s : State) (v : Word) :
    SameBytes s (s.setIndex v).advance :=
  fun b => (State.read_advance _ b).trans (s.read_setIndex v b)

/-- Settles O29: `Annn` writes the zero-extended `nnn`, which is the same number, to `I` and goes on. -/
theorem loadIndexZeroExtends : Obligations.LoadIndexZeroExtends := by
  intro s nnn
  exact ⟨decode_wordA_ldI nnn, (s.setIndex (zext16 nnn)).advance, rfl, zext16_toNat nnn, rfl, rfl,
    s.sameBytes_setIndex_advance _⟩

end Sys2Proof.Machine
end

section
/-! The keys and timers family (44_keys_timers.md R253): the read of the delay timer, its word, what it
leaves unchanged, and the countdown of the step that runs it. -/

namespace Sys2Proof.Machine

theorem decode_wordXKK_ldVDT (x : Nibble) : decode (wordXKK 0xF x 0x07) = some (.ldVDT x) := by
  simp [decode, decodeFamilyF]

/-- A live step whose instruction raises no fault ends with the timer update of the state the
instruction answers (R100, R291). -/
theorem step_of_live_of_exec {s t : State} {i : Instr} (hlive : s.Live)
    (hdecode : decode s.fetchWord = some i) (hexec : exec i s = .next t) (hfault : t.fault = none) :
    step s = .next t.timerUpdate := by
  obtain ⟨hstarted, hlatch⟩ := hlive
  simp [step, State.ready, hstarted, hlatch, hdecode, hexec, t.endCycle_of_live hfault]

/-- Settles O39: `Fx07` is one register write, of the old `DT`; the countdown of its step comes after
it and leaves the registers. -/
theorem readDelayBeforeCountdown : Obligations.ReadDelayBeforeCountdown := by
  intro s x
  refine ⟨decode_wordXKK_ldVDT x, exec_setReg_spec s (.ldVDT x) x s.dt rfl, ?_⟩
  intro hlive hdecode
  have hstep : step s = .next (s.setReg x s.dt).advance.timerUpdate :=
    step_of_live_of_exec hlive hdecode rfl hlive.2
  exact ⟨_, hstep, s.reg_setReg_self x s.dt, countDown_toNat s.dt⟩

end Sys2Proof.Machine
end

section
/-! The exceptions and host family (60_exceptions.md R291, R292, R295): the countdown at the end of a
step that does not fault, and the host's `SetKey`. -/

namespace Sys2Proof.Machine

/-! ### SetKey (R295) -/

/-- A key in range: in a core that has been reset, `SetKey` writes its flag. -/
theorem setKey_of_lt (s : State) (k : Nat) (p : Bool) (hstarted : s.started = true) (hk : k < 16) :
    setKey k p s = .next { s with keypad := s.keypad.set k p hk } := by
  simp [setKey, State.ready, hstarted, hk]

/-- A key out of range: in a core that has been reset, `SetKey` does nothing. -/
theorem setKey_of_le (s : State) (k : Nat) (p : Bool) (hstarted : s.started = true) (hk : 16 ≤ k) :
    setKey k p s = .next s := by
  simp [setKey, State.ready, hstarted, Nat.not_lt.mpr hk]

/-- What a key holds after a write to the same and to another flag of the keypad. -/
theorem State.keyDown_set_keypad (s : State) (k j : Nat) (p : Bool) (hk : k < 16) (hj : j < 16) :
    State.keyDown { s with keypad := s.keypad.set k p hk } j = if j = k then p else s.keyDown j := by
  simp [State.keyDown, Vector.getElem_set, Nat.mod_eq_of_lt hj, eq_comm (a := k)]

/-! ### The obligations -/

/-- Settles O2: such a step ends with the timer update, which counts both timers down. -/
theorem timersCountDownEachStep : Obligations.TimersCountDownEachStep := by
  intro s t i hlive hdecode hexec hfault
  exact ⟨t.timerUpdate, step_of_live_of_exec hlive hdecode hexec hfault, countDown_toNat t.dt,
    countDown_toNat t.st⟩

/-- Settles O50: a key in range is one write to the keypad, a key out of range none; neither looks at
the latch. -/
theorem setKeyChangesOneFlag : Obligations.SetKeyChangesOneFlag := by
  intro s k p hstarted
  by_cases hk : k < 16
  · refine ⟨_, setKey_of_lt s k p hstarted hk, ?_, rfl, ?_⟩
    · intro j hj
      exact s.keyDown_set_keypad k j p hk hj
    · intro hge
      exact absurd hk (Nat.not_lt.mpr hge)
  · refine ⟨s, setKey_of_le s k p hstarted (Nat.not_lt.mp hk), ?_, rfl, fun _ => rfl⟩
    intro j hj
    rw [if_neg (by omega)]

end Sys2Proof.Machine
end

section
/-! The encoding family (30_encoding.md R91–R98): decode and encode undo each other, the decoder follows
the opcode table, and the words it refuses. -/

namespace Sys2Proof.Machine

/-! ### Decode after encode -/

/-- An instruction's word decodes to it (R95, R96): the word's fields are the operands, and its fixed
fields choose the arm. -/
theorem decode_encode (i : Instr) : decode (encode i) = some i := by
  cases i with
  | cls | ret => decide
  | jp | call | ldI | jpV0 => simp [encode, decode]
  | seVB | sneVB | ldVB | addVB | rnd => simp [encode, decode]
  | seVV | sneVV | drw => simp [encode, decode]
  | ldVV | orVV | andVV | xorVV | addVV | sub | shr | subn | shl =>
    simp [encode, decode, decodeFamily8]
  | skp | sknp => simp [encode, decode, decodeFamilyE]
  | ldVDT | ldVK | ldDTV | ldSTV | addIV | ldFV | ldBV | ldMemV | ldVMem =>
    simp [encode, decode, decodeFamilyF]

/-- An instruction's bytes decode to it, and what follows them is the rest (R62, R90). -/
theorem decodeBytes_encodeBytes (i : Instr) (rest : List Byte) :
    decodeBytes (encodeBytes i ++ rest) = .instr i rest := by
  simp [encodeBytes, decodeBytes, wordOfBytes_split, decode_encode]

/-- Settles O42: both directions of reading hold for every instruction, well formed as each one is. -/
theorem decodeOfEncode : Obligations.DecodeOfEncode :=
  fun i rest _ => ⟨decode_encode i, decodeBytes_encodeBytes i rest⟩

/-! ### Encode after decode, family by family (R96) -/

theorem encode_of_decodeFamily8 {x y n : Nibble} {i : Instr} (h : decodeFamily8 x y n = some i) :
    encode i = wordXYN 0x8 x y n := by
  unfold decodeFamily8 at h
  split at h <;> cases h <;> rename_i hn <;>
    exact congrArg (wordXYN 0x8 x y) (BitVec.eq_of_toNat_eq hn.symm)

theorem encode_of_decodeFamilyE {x : Nibble} {kk : Byte} {i : Instr}
    (h : decodeFamilyE x kk = some i) : encode i = wordXKK 0xE x kk := by
  unfold decodeFamilyE at h
  split at h <;> cases h <;> rename_i hk <;>
    exact congrArg (wordXKK 0xE x) (BitVec.eq_of_toNat_eq hk.symm)

theorem encode_of_decodeFamilyF {x : Nibble} {kk : Byte} {i : Instr}
    (h : decodeFamilyF x kk = some i) : encode i = wordXKK 0xF x kk := by
  unfold decodeFamilyF at h
  split at h <;> cases h <;> rename_i hk <;>
    exact congrArg (wordXKK 0xF x) (BitVec.eq_of_toNat_eq hk.symm)

/-! ### A word from its opcode nibble and its other fields -/

section
variable {w : Word} {op : Nibble} (h : (fieldOp w).toNat = op.toNat)
include h

theorem wordA_of_fieldOp : wordA op (fieldNNN w) = w := by
  rw [← BitVec.eq_of_toNat_eq h, wordA_fields]

theorem wordXKK_of_fieldOp : wordXKK op (fieldX w) (fieldKK w) = w := by
  rw [← BitVec.eq_of_toNat_eq h, wordXKK_fields]

theorem wordXYN_of_fieldOp : wordXYN op (fieldX w) (fieldY w) (fieldN w) = w := by
  rw [← BitVec.eq_of_toNat_eq h, wordXYN_fields]

end

/-- Settles O43: in each family the operands are the word's fields, and the arm fixes the rest of the
word. The arm of opcode `op` is case `op + 1`. -/
theorem encodeOfDecode : Obligations.EncodeOfDecode := by
  intro w i hi
  unfold decode at hi
  dsimp only at hi
  split at hi
  case h_1 =>
    split at hi
    · cases hi; exact Eq.symm ‹_›
    · split at hi <;> cases hi; exact Eq.symm ‹_›
  case h_2 | h_3 | h_11 | h_12 => cases hi; exact wordA_of_fieldOp ‹_›
  case h_4 | h_5 | h_7 | h_8 | h_13 => cases hi; exact wordXKK_of_fieldOp ‹_›
  case h_14 => cases hi; exact wordXYN_of_fieldOp ‹_›
  case h_6 hop | h_10 hop =>
    split at hi <;> cases hi
    rename_i hn
    exact (congrArg (wordXYN _ (fieldX w) (fieldY w)) hn.symm).trans (wordXYN_of_fieldOp hop)
  case h_9 hop => exact (encode_of_decodeFamily8 hi).trans (wordXYN_of_fieldOp hop)
  case h_15 hop => exact (encode_of_decodeFamilyE hi).trans (wordXKK_of_fieldOp hop)
  case h_16 hop => exact (encode_of_decodeFamilyF hi).trans (wordXKK_of_fieldOp hop)
  case h_17 => cases hi

/-! ### The words that decode to nothing (R97) -/

/-- Whether a word of family 8, E or F is legal depends on its sub-opcode only. -/
theorem decodeFamily8_isNone (x y n : Nibble) :
    (decodeFamily8 x y n).isNone = (decodeFamily8 0 0 n).isNone := by
  unfold decodeFamily8; split <;> rfl

theorem decodeFamilyE_isNone (x : Nibble) (kk : Byte) :
    (decodeFamilyE x kk).isNone = (decodeFamilyE 0 kk).isNone := by
  unfold decodeFamilyE; split <;> rfl

theorem decodeFamilyF_isNone (x : Nibble) (kk : Byte) :
    (decodeFamilyF x kk).isNone = (decodeFamilyF 0 kk).isNone := by
  unfold decodeFamilyF; split <;> rfl

theorem decodeFamily8_eq_none (x y n : Nibble) :
    decodeFamily8 x y n = none ↔ n ∈ [0x8, 0x9, 0xA, 0xB, 0xC, 0xD, 0xF] := by
  rw [← Option.isNone_iff_eq_none, decodeFamily8_isNone]
  revert n; decide

theorem decodeFamilyE_eq_none (x : Nibble) (kk : Byte) :
    decodeFamilyE x kk = none ↔ kk ∉ [0x9E, 0xA1] := by
  rw [← Option.isNone_iff_eq_none, decodeFamilyE_isNone]
  revert kk; decide

theorem decodeFamilyF_eq_none (x : Nibble) (kk : Byte) :
    decodeFamilyF x kk = none ↔
      kk ∉ [0x07, 0x0A, 0x15, 0x18, 0x1E, 0x29, 0x33, 0x55, 0x65] := by
  rw [← Option.isNone_iff_eq_none, decodeFamilyF_isNone]
  revert kk; decide

/-- Settles O45: the arm of each opcode answers `none` on exactly the words of its family's line, and an
opcode without a line never. The arm of opcode `op` is case `op + 1`. -/
theorem illegalWordsByFamily : Obligations.IllegalWordsByFamily := by
  intro w
  simp only [← BitVec.toNat_inj (x := fieldOp w)]
  unfold decode
  dsimp only
  split
  case h_1 hop => simp [hop, ite_eq_iff]
  case h_6 hop | h_10 hop => simp [hop]
  case h_9 hop => simp [hop, decodeFamily8_eq_none]
  case h_15 hop => simp [hop, decodeFamilyE_eq_none]
  case h_16 hop => simp [hop, decodeFamilyF_eq_none]
  case h_17 =>
    have hlt : (fieldOp w).toNat < 16 := (fieldOp w).isLt
    exfalso
    simp only [imp_false] at *
    omega
  all_goals simp [*]

/-! ### The opcode table (R95, R98) -/

/-- The laws of the rows, for every instruction. -/
theorem opcodeRow_statement (i : Instr) : Laws.OpcodeRow.Statement i := by
  cases i with
  | cls => exact Laws.OpcodeRow.cls
  | ret => exact Laws.OpcodeRow.ret
  | jp => exact Laws.OpcodeRow.jp _
  | call => exact Laws.OpcodeRow.call _
  | seVB => exact Laws.OpcodeRow.seVB _ _
  | sneVB => exact Laws.OpcodeRow.sneVB _ _
  | seVV => exact Laws.OpcodeRow.seVV _ _
  | ldVB => exact Laws.OpcodeRow.ldVB _ _
  | addVB => exact Laws.OpcodeRow.addVB _ _
  | ldVV => exact Laws.OpcodeRow.ldVV _ _
  | orVV => exact Laws.OpcodeRow.orVV _ _
  | andVV => exact Laws.OpcodeRow.andVV _ _
  | xorVV => exact Laws.OpcodeRow.xorVV _ _
  | addVV => exact Laws.OpcodeRow.addVV _ _
  | sub => exact Laws.OpcodeRow.sub _ _
  | shr => exact Laws.OpcodeRow.shr _ _
  | subn => exact Laws.OpcodeRow.subn _ _
  | shl => exact Laws.OpcodeRow.shl _ _
  | sneVV => exact Laws.OpcodeRow.sneVV _ _
  | ldI => exact Laws.OpcodeRow.ldI _
  | jpV0 => exact Laws.OpcodeRow.jpV0 _
  | rnd => exact Laws.OpcodeRow.rnd _ _
  | drw => exact Laws.OpcodeRow.drw _ _ _
  | skp => exact Laws.OpcodeRow.skp _
  | sknp => exact Laws.OpcodeRow.sknp _
  | ldVDT => exact Laws.OpcodeRow.ldVDT _
  | ldVK => exact Laws.OpcodeRow.ldVK _
  | ldDTV => exact Laws.OpcodeRow.ldDTV _
  | ldSTV => exact Laws.OpcodeRow.ldSTV _
  | addIV => exact Laws.OpcodeRow.addIV _
  | ldFV => exact Laws.OpcodeRow.ldFV _
  | ldBV => exact Laws.OpcodeRow.ldBV _
  | ldMemV => exact Laws.OpcodeRow.ldMemV _
  | ldVMem => exact Laws.OpcodeRow.ldVMem _

/-- The row of the instruction a word decodes to stands in the table and admits the word. -/
theorem row_of_decode {w : Word} {i : Instr} (h : decode w = some i) :
    i.row ∈ opcodeTable ∧ i.row.admits w = true := by
  obtain ⟨-, hmem, hbits⟩ := opcodeRow_statement i
  rw [encodeOfDecode w i h] at hbits
  exact ⟨hmem, beq_iff_eq.mpr hbits⟩

/-- Two rows of the table whose patterns agree on the bits both fix are one row. -/
theorem opcodeTable_disjoint : ∀ r ∈ opcodeTable, ∀ r' ∈ opcodeTable,
    r.pattern &&& r'.mask = r'.pattern &&& r.mask → r = r' := by
  decide

/-- Two rows of the table that admit one word are one row. -/
theorem row_unique {w : Word} {r r' : Row} (hr : r ∈ opcodeTable) (hr' : r' ∈ opcodeTable)
    (h : r.admits w = true) (h' : r'.admits w = true) : r = r' := by
  apply opcodeTable_disjoint r hr r' hr'
  rw [← beq_iff_eq.mp h, ← beq_iff_eq.mp h', BitVec.and_assoc, BitVec.and_assoc,
    BitVec.and_comm r.mask]

theorem fieldOp_and (w m : Word) : fieldOp (w &&& m) = fieldOp w &&& fieldOp m :=
  BitVec.extractLsb'_and
theorem fieldN_and (w m : Word) : fieldN (w &&& m) = fieldN w &&& fieldN m :=
  BitVec.extractLsb'_and
theorem fieldKK_and (w m : Word) : fieldKK (w &&& m) = fieldKK w &&& fieldKK m :=
  BitVec.extractLsb'_and

/-- Every row of the table has a legal pattern and fixes its opcode nibble and the sub-opcode of its
family: the whole word in family 0, `n` in 5, 8 and 9, `kk` in E and F (R96). -/
theorem opcodeTable_fixes : ∀ r ∈ opcodeTable, decode r.pattern ≠ none ∧ fieldOp r.mask = 15 ∧
    (fieldOp r.pattern = 0x0 → r.mask = 0xFFFF) ∧
    (fieldOp r.pattern ∈ [0x5, 0x8, 0x9] → fieldN r.mask = 15) ∧
    (fieldOp r.pattern ∈ [0xE, 0xF] → fieldKK r.mask = 255) := by
  decide

/-- A word that a row of the table admits is legal: were it illegal in its family, the pattern of the
row, which has the same opcode and sub-opcode, would be so too. -/
theorem decode_ne_none_of_admits {w : Word} {r : Row} (hr : r ∈ opcodeTable)
    (h : r.admits w = true) : decode w ≠ none := by
  obtain ⟨hlegal, hmaskOp, hmask, hmaskN, hmaskKK⟩ := opcodeTable_fixes r hr
  have hw : w &&& r.mask = r.pattern := beq_iff_eq.mp h
  have hOp : fieldOp w = fieldOp r.pattern := by
    rw [← hw, fieldOp_and, hmaskOp]; exact (nibble_and_ones _).symm
  have hWord (hop : fieldOp w = 0x0) : w = r.pattern := by
    rw [← hw, hmask (hOp ▸ hop)]; exact BitVec.and_allOnes.symm
  have hN (hop : fieldOp w ∈ [0x5, 0x8, 0x9]) : fieldN w = fieldN r.pattern := by
    rw [← hw, fieldN_and, hmaskN (hOp ▸ hop)]; exact (nibble_and_ones _).symm
  have hKK (hop : fieldOp w ∈ [0xE, 0xF]) : fieldKK w = fieldKK r.pattern := by
    rw [← hw, fieldKK_and, hmaskKK (hOp ▸ hop)]; exact (byte_and_ones _).symm
  intro hnone
  apply hlegal
  rw [illegalWordsByFamily] at hnone ⊢
  rw [← hOp]
  obtain ⟨hop, hsub⟩ | ⟨hop, hsub⟩ | ⟨hop, hsub⟩ | ⟨hop, hsub⟩ | ⟨hop, hsub⟩ | ⟨hop, hsub⟩ := hnone
  · rw [hWord hop] at hsub
    exact .inl ⟨hop, hsub⟩
  · rw [hN (by simp [hop])] at hsub
    exact .inr (.inl ⟨hop, hsub⟩)
  · rw [hN (by simp [hop])] at hsub
    exact .inr (.inr (.inl ⟨hop, hsub⟩))
  · rw [hN (by simp [hop])] at hsub
    exact .inr (.inr (.inr (.inl ⟨hop, hsub⟩)))
  · rw [hKK (by simp [hop])] at hsub
    exact .inr (.inr (.inr (.inr (.inl ⟨hop, hsub⟩))))
  · rw [hKK (by simp [hop])] at hsub
    exact .inr (.inr (.inr (.inr (.inr ⟨hop, hsub⟩))))

/-- Settles O44: a word the decoder reads has the row of its instruction, no word has two rows, and a
word with a row is not illegal. -/
theorem decodeFollowsOpcodeTable : Obligations.DecodeFollowsOpcodeTable := by
  refine fun w => ⟨⟨?_, ?_⟩, ?_⟩
  · intro hnone r hr
    by_contra hadmits
    exact decode_ne_none_of_admits hr (Bool.eq_true_of_not_eq_false hadmits) hnone
  · intro hnorow
    by_contra hlegal
    obtain ⟨i, hi⟩ := Option.ne_none_iff_exists'.mp hlegal
    obtain ⟨hrow, hadmits⟩ := row_of_decode hi
    exact Bool.false_ne_true ((hnorow _ hrow).symm.trans hadmits)
  · intro i hi
    obtain ⟨hrow, hadmits⟩ := row_of_decode hi
    exact ⟨hadmits, fun r hr h => row_unique hr hrow h hadmits⟩

/-- Settles O46: each word is decoded by computation. -/
theorem sampleWordsDecode : Obligations.SampleWordsDecode := by
  unfold Obligations.SampleWordsDecode
  decide

end Sys2Proof.Machine
end

section
/-! What an instruction can do, said once for all of them (10_state.md R39; 60_exceptions.md R280): which
parts of the state no instruction touches, which faults one can raise, and the canonical form of
memory. -/

namespace Sys2Proof.Machine

/-! ### Frames of the operations that branch -/

/-- A call touches the stack, its pointer and `pc`, or the latch. -/
theorem State.pushJump_frame (s : State) (ra target word : Word) :
    s.pushJump ra target word =
      { s with
        stack := (s.pushJump ra target word).stack
        sp := (s.pushJump ra target word).sp
        pc := (s.pushJump ra target word).pc
        fault := (s.pushJump ra target word).fault } := by
  unfold State.pushJump
  split <;> rfl

/-- A return touches the stack pointer and `pc`, or the latch. -/
theorem State.popJump_frame (s : State) (word : Word) :
    s.popJump word =
      { s with
        sp := (s.popJump word).sp
        pc := (s.popJump word).pc
        fault := (s.popJump word).fault } := by
  unfold State.popJump
  split <;> rfl

/-- A key wait advances, stores the lowest pressed key and advances, or does nothing (R254). -/
theorem State.keyWait_cases (s : State) (x : Nibble) :
    s.keyWait x = s.advance ∨ (∃ v, s.keyWait x = (s.setReg x v).advance) ∨ s.keyWait x = s := by
  unfold State.keyWait State.waitKey
  split
  · exact .inl rfl
  · split
    · exact .inr (.inl ⟨_, rfl⟩)
    · exact .inr (.inr rfl)

/-- A key wait touches registers and `pc` only. -/
theorem State.keyWait_frame (s : State) (x : Nibble) :
    s.keyWait x = { s with regs := (s.keyWait x).regs, pc := (s.keyWait x).pc } := by
  obtain h | ⟨v, h⟩ | h := s.keyWait_cases x <;> rw [h] <;> rfl

/-! ### Every instruction -/

/-- Every instruction answers a next state in every state (R285). -/
theorem exec_total (i : Instr) (s : State) : ∃ t, exec i s = .next t := by
  cases i <;> exact ⟨_, rfl⟩

/-- No instruction writes the keypad, the parameters, the reset flag or the output. -/
theorem exec_frame {i : Instr} {s t : State} (h : exec i s = .next t) :
    t.keypad = s.keypad ∧ t.config = s.config ∧ t.started = s.started ∧ t.result = s.result := by
  cases i with
  | ret => cases h; rw [State.popJump_frame]; exact ⟨rfl, rfl, rfl, rfl⟩
  | call => cases h; rw [State.pushJump_frame]; exact ⟨rfl, rfl, rfl, rfl⟩
  | ldVK => cases h; rw [State.keyWait_frame]; exact ⟨rfl, rfl, rfl, rfl⟩
  | ldBV | ldMemV => cases h; rw [State.storeFrom_frame]; exact ⟨rfl, rfl, rfl, rfl⟩
  | ldVMem => cases h; rw [State.loadRegs_frame]; exact ⟨rfl, rfl, rfl, rfl⟩
  | _ => cases h; exact ⟨rfl, rfl, rfl, rfl⟩

/-- The pieces that stand in fields of their own: each is left alone by the instructions not named for
it. The instructions of the last case write at most registers, `pc` and the one piece they are named
for; the others are those that branch or run over a block. -/
theorem exec_fields_frame {i : Instr} {s t : State} (h : exec i s = .next t) :
    (writesIndex i = false → t.index = s.index) ∧ (writesStack i = false → t.stack = s.stack) ∧
    (writesSp i = false → t.sp = s.sp ∧ t.fault = s.fault) ∧
    (writesDelay i = false → t.dt = s.dt) ∧ (writesSound i = false → t.st = s.st) ∧
    (writesFb i = false → t.fb = s.fb) ∧ (writesMemory i = false → t.memory = s.memory) ∧
    (takesDraw i = false → t.draws = s.draws) := by
  cases i with
  | ret => cases h; rw [State.popJump_frame]; simp [writesSp]
  | call => cases h; rw [State.pushJump_frame]; simp [writesSp, writesStack]
  | ldVK => cases h; rw [State.keyWait_frame]; simp
  | ldBV | ldMemV => cases h; rw [State.storeFrom_frame]; simp [writesMemory]
  | ldVMem => cases h; rw [State.loadRegs_frame]; simp
  | _ =>
    cases h
    simp [writesIndex, writesDelay, writesSound, writesFb, takesDraw]

/-- Memory reads alike in two states with the same written cells, parameters and reset flag. -/
theorem State.read_congr {s t : State} (hmemory : t.memory = s.memory)
    (hconfig : t.config = s.config) (hstarted : t.started = s.started) (a : Nat) :
    t.read a = s.read a := by
  simp [State.read, State.unlisted, State.glyphByte, hmemory, hconfig, hstarted]

/-- Memory is canonical alike in two states with the same written cells, parameters and reset flag. -/
theorem State.memoryWf_congr {s t : State} (hmemory : t.memory = s.memory)
    (hconfig : t.config = s.config) (hstarted : t.started = s.started) :
    t.memoryWf = s.memoryWf := by
  simp [State.memoryWf, State.glyphByte, hmemory, hconfig, hstarted]

/-- Every instruction keeps memory in canonical form: only the block stores write it (R63). -/
theorem exec_memoryWf {i : Instr} {s t : State} (h : exec i s = .next t)
    (hwf : s.memoryWf = true) : t.memoryWf = true := by
  cases hi : writesMemory i with
  | false =>
    obtain ⟨-, -, -, -, -, -, hmemory, -⟩ := exec_fields_frame h
    obtain ⟨-, hconfig, hstarted, -⟩ := exec_frame h
    rw [State.memoryWf_congr (hmemory hi) hconfig hstarted, hwf]
  | true =>
    cases i with
    | ldBV | ldMemV => cases h; exact State.memoryWf_storeFrom _ s 0 hwf
    | _ => cases hi

/-- An instruction leaves the latch alone, or it is a return with an empty stack or a call with a full
one, which takes the fault and does nothing else (R283, R284). -/
theorem exec_fault_cases {i : Instr} {s t : State} (h : exec i s = .next t) :
    t.fault = s.fault ∨
      (i = .ret ∧ s.sp.val = 0 ∧ t = s.raise .stackUnderflow (encode i)) ∨
      ((∃ nnn, i = .call nnn) ∧ s.sp.val = 16 ∧ t = s.raise .stackOverflow (encode i)) := by
  cases hi : writesSp i with
  | false =>
    obtain ⟨-, -, hsp, -⟩ := exec_fields_frame h
    exact .inl (hsp hi).2
  | true =>
    cases i with
    | ret =>
      cases h
      obtain ⟨-, hlatch⟩ | ⟨hempty, hraise⟩ := s.popJump_cases (encode .ret)
      · exact .inl hlatch
      · exact .inr (.inl ⟨rfl, hempty, hraise⟩)
    | call nnn =>
      cases h
      obtain ⟨-, hlatch⟩ | ⟨hfull, hraise⟩ :=
        s.pushJump_cases (s.pc + 2) (zext16 nnn) (encode (.call nnn))
      · exact .inl hlatch
      · exact .inr (.inr ⟨⟨nnn, rfl⟩, hfull, hraise⟩)
    | _ => cases hi

/-- Settles O55: an instruction answers, and the latch is left alone but in the two faulting cases. -/
theorem onlyCallAndReturnRaise : Obligations.OnlyCallAndReturnRaise := by
  intro i s
  obtain ⟨t, ht⟩ := exec_total i s
  refine ⟨t, ht, ?_⟩
  obtain hlatch | ⟨hret, hempty, -⟩ | ⟨hcall, hfull, -⟩ := exec_fault_cases ht
  · exact .inl hlatch
  · exact .inr (.inl ⟨hret, hempty⟩)
  · exact .inr (.inr ⟨hcall, hfull⟩)

end Sys2Proof.Machine
end

section
/-! The invariant (60_exceptions.md R281, R286, R301): it holds at reset, and a step keeps it. -/

namespace Sys2Proof.Machine

/-! ### Keeping the invariant -/

/-- A core without a record meets the invariant when memory is canonical and no record is given out. -/
theorem inv_of_no_fault {s : State} (hmemory : s.memoryWf = true) (hfault : s.fault = none)
    (hresult : ∀ r, s.result ≠ some (.faulted r)) : Inv s where
  memory := hmemory
  precise r hr := by rw [hfault] at hr; cases hr
  output r := by simp [hfault, hresult]

/-- Taking a precise fault and giving out its record. -/
theorem inv_stayFaulted {s : State} {r : FaultRecord} (hmemory : s.memoryWf = true)
    (hfault : s.fault = some r) (hprecise : r.Precise s) : Inv (s.stayFaulted r) where
  memory := hmemory
  precise r' hr' := by
    obtain rfl : r = r' := Option.some.inj (hfault.symm.trans hr')
    exact hprecise
  output r' := by simp [State.stayFaulted, hfault]

/-- A fault raised at a state whose memory is canonical, when its record is precise there. -/
theorem inv_raise_endCycle {s : State} {cause : Fault} {word : Word} (hmemory : s.memoryWf = true)
    (hprecise : FaultRecord.Precise ⟨cause, s.pc, word⟩ s) :
    Inv (s.raise cause word).endCycle := by
  rw [State.endCycle_of_fault _ ⟨cause, s.pc, word⟩ rfl]
  exact inv_stayFaulted hmemory rfl hprecise

/-- Under the invariant a faulted core already gives out its record (R286). -/
theorem stayFaulted_eq_self {s : State} {r : FaultRecord} (hinv : Inv s) (hfault : s.fault = some r) :
    s.stayFaulted r = s := by
  rw [State.stayFaulted, ← (hinv.output r).mp hfault]

/-- A live step on a legal word keeps the invariant: the instruction raises nothing, or a fault that is
precise, since the word fetched is the one it encodes to. -/
theorem inv_endCycle_of_exec {i : Instr} {s u : State} (hinv : Inv s) (hfault : s.fault = none)
    (hdecode : decode s.fetchWord = some i) (hexec : exec i s = .next u) : Inv u.endCycle := by
  have hword : encode i = s.fetchWord := encodeOfDecode _ _ hdecode
  obtain hlatch | ⟨rfl, hempty, rfl⟩ | ⟨hcall, hfull, rfl⟩ := exec_fault_cases hexec
  · rw [State.endCycle_of_live u (hlatch.trans hfault)]
    have hmemory : u.memoryWf = true := exec_memoryWf hexec hinv.memory
    exact inv_of_no_fault hmemory (hlatch.trans hfault) fun _ hr => nomatch hr
  · exact inv_raise_endCycle hinv.memory ⟨rfl, hword, hempty, hword.symm ▸ hdecode⟩
  · obtain ⟨nnn, rfl⟩ := hcall
    exact inv_raise_endCycle hinv.memory ⟨rfl, hword, hfull, nnn, hword.symm ▸ hdecode⟩

/-! ### The obligations -/

/-- Settles O53: each of the three things a step can do keeps it. -/
theorem stepKeepsInvariant : Obligations.StepKeepsInvariant := by
  intro s t hinv hstep
  obtain ⟨-, ⟨r, hfault, rfl⟩ | ⟨-, hdecode, rfl⟩ | ⟨hfault, i, u, hdecode, hexec, rfl⟩⟩ :=
    step_next s t hstep
  · rw [stayFaulted_eq_self hinv hfault]
    exact hinv
  · exact inv_raise_endCycle hinv.memory ⟨rfl, rfl, hdecode⟩
  · exact inv_endCycle_of_exec hinv hfault hdecode hexec

/-- Settles O52: no record, no output, and nothing listed in memory. -/
theorem invariantAtReset : Obligations.InvariantAtReset :=
  inv_of_no_fault State.memoryWf_reset rfl fun _ hr => nomatch hr

end Sys2Proof.Machine
end

section
/-! The cycle (30_encoding.md R100; 60_exceptions.md R281, R286): what a live, a faulted and a not yet
reset core does in a step, and the word the aid `withFetchWord` lays down. -/

namespace Sys2Proof.Machine

/-! ### A step, case by case -/

/-- Before the first reset a step is refused (R326). -/
theorem step_of_not_started {s : State} (hstarted : s.started = false) :
    step s = .refused .beforeReset := by
  simp [step, State.ready, hstarted]

/-- Before the first reset `SetKey` is refused (R326). -/
theorem setKey_of_not_started {s : State} (k : Nat) (p : Bool) (hstarted : s.started = false) :
    setKey k p s = .refused .beforeReset := by
  simp [setKey, State.ready, hstarted]

/-- A faulted core gives out its record again (R286). -/
theorem step_of_fault {s : State} {r : FaultRecord} (hstarted : s.started = true)
    (hfault : s.fault = some r) : step s = .next (s.stayFaulted r) := by
  simp [step, State.ready, hstarted, hfault]

/-- A live step on an illegal word raises DecodeFailure (R97, R282). -/
theorem step_of_live_of_illegal {s : State} (hlive : s.Live) (hdecode : decode s.fetchWord = none) :
    step s = .next (s.decodeFailure s.fetchWord) := by
  obtain ⟨hstarted, hlatch⟩ := hlive
  simp [step, State.ready, hstarted, hlatch, hdecode]

/-- A live step on a legal word runs its instruction and ends the cycle (R100). -/
theorem step_of_live_of_decode {s t : State} {i : Instr} (hlive : s.Live)
    (hdecode : decode s.fetchWord = some i) (hexec : exec i s = .next t) :
    step s = .next t.endCycle := by
  obtain ⟨hstarted, hlatch⟩ := hlive
  simp [step, State.ready, hstarted, hlatch, hdecode, hexec]

/-- The end of a cycle leaves the reset flag alone. -/
theorem State.endCycle_started (s : State) : s.endCycle.started = s.started := by
  rw [State.endCycle_frame]

/-- In a core that is reset a step always answers. -/
theorem step_total {s : State} (hstarted : s.started = true) : ∃ t, step s = .next t := by
  cases hfault : s.fault with
  | some r => exact ⟨_, step_of_fault hstarted hfault⟩
  | none =>
    cases hdecode : decode s.fetchWord with
    | none => exact ⟨_, step_of_live_of_illegal ⟨hstarted, hfault⟩ hdecode⟩
    | some i =>
      obtain ⟨t, hexec⟩ := exec_total i s
      exact ⟨_, step_of_live_of_decode ⟨hstarted, hfault⟩ hdecode hexec⟩

/-- A step leaves the reset flag alone. -/
theorem step_started {s t : State} (h : step s = .next t) : t.started = s.started := by
  obtain ⟨-, ⟨r, -, rfl⟩ | ⟨-, -, rfl⟩ | ⟨-, i, u, -, hexec, rfl⟩⟩ := step_next s t h
  · rfl
  · rfl
  · obtain ⟨-, -, hstarted, -⟩ := exec_frame hexec
    rw [State.endCycle_started, hstarted]

/-! ### The obligations -/

/-- Settles O1: the end of the cycle is the timer update, or gives out the record. -/
theorem stepRunsDecodedInstruction : Obligations.StepRunsDecodedInstruction := by
  intro s t i hlive hdecode hexec
  refine ⟨t.endCycle, step_of_live_of_decode hlive hdecode hexec, t.endCycle_frame, ?_, ?_⟩
  · intro hfault
    rw [State.endCycle_of_live t hfault]
    exact ⟨rfl, rfl, by simp [State.timerUpdate, beq_eq_decide]⟩
  · intro r hfault
    rw [State.endCycle_of_fault t r hfault]
    exact ⟨rfl, rfl, rfl⟩

/-- Settles O3: `Fx18` writes the sound timer and raises nothing, and the timer update that ends its
step reads the written value. -/
theorem soundTimerWriteTone : Obligations.SoundTimerWriteTone := by
  intro s x hlive hdecode
  have hstep : step s = .next (s.setSound (s.reg x)).advance.timerUpdate :=
    step_of_live_of_exec hlive hdecode rfl hlive.2
  exact ⟨_, hstep, by simp [State.timerUpdate, beq_eq_decide], countDown_toNat (s.reg x)⟩

/-- Settles O4: the step raises DecodeFailure and gives out its record. -/
theorem illegalWordLatchesDecodeFailure : Obligations.IllegalWordLatchesDecodeFailure :=
  fun _ hlive hdecode => ⟨_, step_of_live_of_illegal hlive hdecode, rfl, rfl, rfl, fun _ => rfl⟩

/-- Settles O5: the record a faulted core gives out is the one it gives out already. -/
theorem faultedCoreStaysUnchanged : Obligations.FaultedCoreStaysUnchanged := by
  intro s r hstarted hinv hfault
  rw [step_of_fault hstarted hfault, stayFaulted_eq_self hinv hfault]

/-- Settles O6: the reset flag alone decides whether a step answers, and no step clears it. -/
theorem stepRunsExactlyAfterReset : Obligations.StepRunsExactlyAfterReset := by
  intro s k p
  refine ⟨fun hstarted => ⟨step_of_not_started hstarted, setKey_of_not_started k p hstarted⟩, ?_⟩
  intro hstarted
  obtain ⟨t, hstep⟩ := step_total hstarted
  exact ⟨t, hstep, (step_started hstep).trans hstarted⟩

/-- A word of the table decodes as the decoder reads it from its two bytes (R62). -/
theorem decode_tableWord {nbits w : Nat} {i : Instr} (h : decodeTableWord nbits w = some i) :
    decode (tableWord nbits w) = some i := by
  simp only [decodeTableWord, decodeBytes, wordOfBytes_split] at h
  cases hdecode : decode (tableWord nbits w) with
  | none => simp [hdecode] at h
  | some j => simpa [hdecode] using h

/-- Settles O7: the core after `withFetchWord` is live, and fetches the word laid down. -/
theorem placedWordIsFetched : Obligations.PlacedWordIsFetched := by
  intro s w i h
  refine ⟨⟨rfl, rfl⟩, ?_⟩
  rw [State.withFetchWord, State.fetchWord_placeWord]
  exact decode_tableWord h

/-- Settles O60: a jump to its own address leaves the state as it is, so the step is a timer update. -/
theorem parkedStaysParked : Obligations.ParkedStaysParked := by
  rintro s ⟨hlive, nnn, hdecode, htarget⟩
  have hexec : exec (.jp nnn) s = .next s :=
    congrArg (fun w => Host.Outcome.next (s.jump w)) htarget
  exact ⟨s.timerUpdate, step_of_live_of_exec hlive hdecode hexec hlive.2,
    ⟨hlive, nnn, hdecode, htarget⟩, rfl⟩

end Sys2Proof.Machine
end

section
/-! Who writes what (10_state.md R22, R27, R28, R29, R39): the access table, the registers, the stack
pointer and the keypad. -/

namespace Sys2Proof.Machine

/-! ### The pieces of the state but registers and `pc` (R39) -/

/-- Settles O56: memory reads as before where its cells, the parameters and the reset flag are. -/
theorem accessTableWrites : Obligations.AccessTableWrites := by
  intro i s t h
  obtain ⟨hindex, hstack, hsp, hdelay, hsound, hfb, hmemory, hdraws⟩ := exec_fields_frame h
  obtain ⟨hkeypad, hconfig, hstarted, hresult⟩ := exec_frame h
  exact ⟨hindex, hstack, hsp, hdelay, hsound, hfb,
    fun hi => State.read_congr (hmemory hi) hconfig hstarted, hdraws, hkeypad, hconfig, hstarted,
    hresult⟩

/-! ### Registers (R22) -/

theorem mem_registerRange {i : Nat} {x : Nibble} : i ∈ registerRange x ↔ i ≤ x.toNat := by
  rw [registerRange, List.mem_range, Nat.lt_succ_iff]

/-- A load of the range `V[0..x]`, register by register (R225). -/
theorem State.reg_loadRegs_registerRange (s : State) (x r : Nibble) :
    (s.loadRegs (registerRange x)).reg r =
      if r.toNat ≤ x.toNat then s.read (s.index.toNat + r.toNat) else s.reg r := by
  have hrange : ∀ i ∈ registerRange x, i < 16 := by
    intro i hi
    exact Nat.lt_of_le_of_lt (mem_registerRange.mp hi) x.isLt
  rw [State.reg_loadRegs _ s r hrange]
  simp only [mem_registerRange, State.indexAddr]

/-- Settles O57: the instructions of the last case write one register, the flag register, or none. -/
theorem registersWrittenByNamedOnly : Obligations.RegistersWrittenByNamedOnly := by
  intro i s t r h hr
  cases i with
  | ret => cases h; rw [State.popJump_frame]; rfl
  | call => cases h; rw [State.pushJump_frame]; rfl
  | ldBV | ldMemV => cases h; rw [State.storeFrom_frame]; rfl
  | ldVK x =>
    cases h
    have hx : r ≠ x := by simpa [writesReg] using hr
    obtain hk | ⟨v, hk⟩ | hk := s.keyWait_cases x
    · rw [hk]; rfl
    · rw [hk, State.reg_advance, State.reg_setReg, if_neg hx]
    · rw [hk]
  | ldVMem x =>
    cases h
    have hx : ¬ r.toNat ≤ x.toNat := by simpa [writesReg] using hr
    rw [State.reg_advance, State.reg_loadRegs_registerRange, if_neg hx]
  | _ =>
    cases h
    simp_all [writesReg, State.reg_setReg, State.reg_setFlag]

/-! ### The stack pointer (R27, R28) -/

theorem State.pushJump_sp (s : State) (ra target word : Word) :
    (s.pushJump ra target word).sp.val ≤ s.sp.val + 1 ∧
      s.sp.val ≤ (s.pushJump ra target word).sp.val := by
  unfold State.pushJump
  split <;> simp

theorem State.popJump_sp (s : State) (word : Word) :
    (s.popJump word).sp.val ≤ s.sp.val ∧ s.sp.val ≤ (s.popJump word).sp.val + 1 := by
  unfold State.popJump
  split
  · simp; omega
  · simp

/-- An instruction moves the stack pointer by at most one: only a call and a return move it. -/
theorem exec_sp {i : Instr} {s t : State} (h : exec i s = .next t) :
    t.sp.val ≤ s.sp.val + 1 ∧ s.sp.val ≤ t.sp.val + 1 := by
  cases hi : writesSp i with
  | false =>
    obtain ⟨-, -, hsp, -⟩ := exec_fields_frame h
    rw [(hsp hi).1]
    omega
  | true =>
    cases i with
    | ret => cases h; have := s.popJump_sp (encode .ret); omega
    | call nnn =>
      cases h
      have := s.pushJump_sp (s.pc + 2) (zext16 nnn) (encode (.call nnn))
      omega
    | _ => cases hi

/-- Settles O59: the end of the cycle leaves the stack pointer, and a fault is taken instead of its
move. -/
theorem stackPointerMovesByOne : Obligations.StackPointerMovesByOne := by
  intro s t hstep
  obtain ⟨-, ⟨r, -, rfl⟩ | ⟨-, -, rfl⟩ | ⟨hlatch, i, u, -, hexec, rfl⟩⟩ := step_next s t hstep
  · simp
  · simp [State.decodeFailure_eq]
  · rw [State.endCycle_frame]
    have hmove := exec_sp hexec
    refine ⟨hmove, ?_⟩
    rintro ⟨r, hr : u.fault = some r⟩
    obtain hkeep | ⟨-, -, rfl⟩ | ⟨-, -, rfl⟩ := exec_fault_cases hexec
    · rw [hkeep, hlatch] at hr; cases hr
    · rfl
    · rfl

/-! ### The keypad (R29) -/

/-- The same core with another keypad. -/
def State.withKeypad (s : State) (keys : Vector Bool 16) : State := { s with keypad := keys }

theorem State.pushJump_withKeypad (s : State) (keys : Vector Bool 16) (ra target word : Word) :
    (s.withKeypad keys).pushJump ra target word = (s.pushJump ra target word).withKeypad keys := by
  by_cases h : s.sp.val < 16
  · rw [s.pushJump_of_lt _ _ _ h, (s.withKeypad keys).pushJump_of_lt _ _ _ h]; rfl
  · have hfull : s.sp.val = 16 := by omega
    rw [s.pushJump_full _ _ _ hfull, (s.withKeypad keys).pushJump_full _ _ _ hfull]; rfl

theorem State.popJump_withKeypad (s : State) (keys : Vector Bool 16) (word : Word) :
    (s.withKeypad keys).popJump word = (s.popJump word).withKeypad keys := by
  by_cases h : 0 < s.sp.val
  · rw [s.popJump_of_pos _ h, (s.withKeypad keys).popJump_of_pos _ h]; rfl
  · have hempty : s.sp.val = 0 := by omega
    rw [s.popJump_empty _ hempty, (s.withKeypad keys).popJump_empty _ hempty]; rfl

theorem State.storeFrom_withKeypad (vs : List Byte) (keys : Vector Bool 16) :
    ∀ (s : State) (k : Nat),
      (s.withKeypad keys).storeFrom k vs = (s.storeFrom k vs).withKeypad keys := by
  induction vs with
  | nil => intro s k; rfl
  | cons v vs ih => intro s k; exact ih (s.write (s.indexAddr k) v) (k + 1)

theorem State.loadRegs_withKeypad (is : List Nat) (keys : Vector Bool 16) :
    ∀ s : State, (s.withKeypad keys).loadRegs is = (s.loadRegs is).withKeypad keys := by
  induction is with
  | nil => intro s; rfl
  | cons i is ih => intro s; exact ih (s.setReg (rangeReg i) (s.read (s.indexAddr i)))

/-- An instruction that is not a key instruction does the same with another keypad. -/
theorem exec_withKeypad {i : Instr} {s t : State} (keys : Vector Bool 16)
    (hi : readsKeypad i = false) (h : exec i s = .next t) :
    exec i (s.withKeypad keys) = .next (t.withKeypad keys) := by
  cases i with
  | skp | sknp | ldVK => cases hi
  | ret => cases h; exact congrArg Host.Outcome.next (s.popJump_withKeypad keys _)
  | call => cases h; exact congrArg Host.Outcome.next (s.pushJump_withKeypad keys _ _ _)
  | ldBV | ldMemV =>
    cases h
    exact congrArg (fun u => Host.Outcome.next u.advance) (s.storeFrom_withKeypad _ keys 0)
  | ldVMem =>
    cases h
    exact congrArg (fun u => Host.Outcome.next u.advance) (s.loadRegs_withKeypad _ keys)
  | _ => cases h; rfl

/-- Settles O58: what the instruction answers with one keypad is what it answers with the other. -/
theorem keypadHiddenFromOthers : Obligations.KeypadHiddenFromOthers := by
  intro i s keys hi
  obtain ⟨t, ht⟩ := exec_total i s
  exact ⟨t, ht, exec_withKeypad keys hi ht⟩

end Sys2Proof.Machine
end

section
/-! The control-flow family (41_flow.md R150, R152, R155–R157): returns and calls with and without
room, the indexed jump and the skips on two registers. -/

namespace Sys2Proof.Machine

/-! ### Calls and returns -/

/-- A call with room pushes `pc + 2` and goes to `nnn`. -/
theorem exec_call_of_lt {s : State} (nnn : Addr) (h : s.sp.val < 16) :
    exec (.call nnn) s = .next
      { s with
        stack := s.stack.set s.sp.val (s.pc + 2) h
        sp := ⟨s.sp.val + 1, Nat.succ_lt_succ h⟩
        pc := zext16 nnn } :=
  congrArg Host.Outcome.next (s.pushJump_of_lt _ _ _ h)

/-- A return with a stack that is not empty pops the entry below the stack pointer. -/
theorem exec_ret_of_pos {s : State} (h : 0 < s.sp.val) :
    exec .ret s = .next
      { s with sp := ⟨s.sp.val - 1, by omega⟩, pc := s.stack[s.sp.val - 1]'(by omega) } :=
  congrArg Host.Outcome.next (s.popJump_of_pos _ h)

/-- Taking a fault changes the latch only (R281). -/
theorem State.onlyFault_raise (s : State) (cause : Fault) (word : Word) :
    OnlyFault s (s.raise cause word) := ⟨rfl, s.read_raise cause word⟩

/-- The word a call records is `0x2000 + nnn`. -/
theorem encode_call_toNat (nnn : Addr) : (encode (.call nnn)).toNat = 0x2000 + nnn.toNat :=
  toNat_wordA 0x2 nnn

/-- Settles O8: with `sp = j + 1` the entry below the stack pointer is `stack[j]`. -/
theorem returnPopsAddress : Obligations.ReturnPopsAddress := by
  intro s j hj
  refine ⟨_, exec_ret_of_pos (by omega), ?_, ?_, rfl, rfl, fun _ => rfl⟩
  · simp [hj]
  · simp [hj]

/-- Settles O9: the pop of an empty stack is the fault and nothing else. -/
theorem emptyReturnUnderflows : Obligations.EmptyReturnUnderflows :=
  fun s hempty => ⟨_, congrArg Host.Outcome.next (s.popJump_empty _ hempty), rfl,
    s.onlyFault_raise _ _⟩

/-- Settles O10: with `sp = j` the entry written is `stack[j]`. -/
theorem callPushesReturnAddress : Obligations.CallPushesReturnAddress := by
  intro s nnn j hj
  refine ⟨_, exec_call_of_lt nnn (by omega), ?_, ?_, ?_, zext16_toNat nnn, rfl, fun _ => rfl⟩
  · simp [hj]
  · simp [hj]
  · intro k hk
    have hne : j.val ≠ k.val := fun h => hk (Fin.ext h.symm)
    simp [hj, hne]

/-- Settles O11: the push on a full stack is the fault and nothing else. -/
theorem fullCallOverflows : Obligations.FullCallOverflows :=
  fun s nnn hfull => ⟨_, _, congrArg Host.Outcome.next (s.pushJump_full _ _ _ hfull), rfl, rfl, rfl,
    encode_call_toNat nnn, s.onlyFault_raise _ _⟩

/-- Settles O12: the entry the return pops is the one the call pushed. -/
theorem returnAfterCallComesBack : Obligations.ReturnAfterCallComesBack := by
  intro s nnn hroom
  refine ⟨_, _, exec_call_of_lt nnn hroom, exec_ret_of_pos (Nat.succ_pos _), ?_, ?_⟩
  · simp
  · simp

/-! ### Jumps and skips -/

/-- Settles O14: `nnn + V[0]` is below 65536, so 16 bits hold it. -/
theorem indexedJumpAddsV0 : Obligations.IndexedJumpAddsV0 := by
  intro s nnn
  refine ⟨s.jump (zext16 nnn + zextByte (s.reg 0)), rfl, ?_, s.onlyPc_jump _⟩
  have haddr : nnn.toNat < 4096 := nnn.isLt
  have hbyte : (s.reg 0).toNat < 256 := (s.reg 0).isLt
  rw [State.jump_pc, BitVec.toNat_add, zext16_toNat, zextByte_toNat]
  omega

theorem decode_wordXYN_seVV (x y n : Nibble) :
    decode (wordXYN 0x5 x y n) = if n = 0 then some (.seVV x y) else none := by
  simp [decode]

theorem decode_wordXYN_sneVV (x y n : Nibble) :
    decode (wordXYN 0x9 x y n) = if n = 0 then some (.sneVV x y) else none := by
  simp [decode]

/-- Settles O16: both are skips, the one on `V[x] = V[y]`, the other on its negation. -/
theorem registerSkips : Obligations.RegisterSkips := by
  intro s x y n
  refine ⟨decode_wordXYN_seVV x y n, decode_wordXYN_sneVV x y n, ?_, ?_⟩
  · exact exec_skip_spec s (.seVV x y) (s.reg x == s.reg y) _ rfl beq_iff_eq
  · exact exec_skip_spec s (.sneVV x y) (s.reg x != s.reg y) _ rfl bne_iff_ne

end Sys2Proof.Machine
end

section
/-! The ALU family (42_alu.md R187–R193): the operations that write the flag register before their
result, and the random byte. -/

namespace Sys2Proof.Machine

/-! ### Values as numbers -/

theorem byte_sub_toNat (a b : Byte) : (a - b).toNat = (a.toNat + 256 - b.toNat) % 256 := by
  have hb : b.toNat < 256 := b.isLt
  rw [BitVec.toNat_sub]
  omega

theorem byte_shiftRight_one_toNat (a : Byte) : (a >>> 1).toNat = a.toNat / 2 := by
  simp [Nat.shiftRight_eq_div_pow]

theorem byte_shiftLeft_one_toNat (a : Byte) : (a <<< 1).toNat = 2 * a.toNat % 256 := by
  simp [Nat.shiftLeft_eq, Nat.mul_comm]

theorem lowBitFlag_toNat (a : Byte) : (lowBitFlag a).toNat = a.toNat % 2 := by
  simp [lowBitFlag, Nat.and_one_is_mod]

theorem highBitFlag_toNat (a : Byte) : (highBitFlag a).toNat = a.toNat / 128 := by
  simp [highBitFlag, Nat.shiftRight_eq_div_pow]

theorem carryFlag_eq (n : Nat) : carryFlag n = if n > 255 then 1 else 0 := by
  simp [carryFlag, b2u]

/-! ### An instruction that writes the flag and then one register -/

theorem State.reg_setFlag_self (s : State) (v : Byte) : (s.setFlag v).reg 15 = v :=
  s.reg_setReg_self 15 v

theorem State.reg_setFlag_of_ne (s : State) (v : Byte) {x : Nibble} (hx : x ≠ 15) :
    (s.setFlag v).reg x = s.reg x := by
  rw [State.reg_setFlag, if_neg hx]

/-- An instruction that writes `f` to the flag register, then `v` to `V[x]`, and goes on: `V[x]` holds
`v`, and the flag register `f` unless it is `V[x]` (R193). -/
theorem exec_setFlag_setReg_spec (s : State) (i : Instr) (x : Nibble) (f v : Byte)
    (hexec : exec i s = .next ((s.setFlag f).setReg x v).advance) :
    ∃ t, exec i s = .next t ∧ t.reg x = v ∧ (x ≠ 15 → t.reg 15 = f) ∧ SameRegsBut s t [x, 15] ∧
      t.pc = s.pc + 2 ∧ OnlyRegsPc s t := by
  refine ⟨_, hexec, State.reg_setReg_self _ x v, ?_, ?_, rfl, rfl, fun _ => rfl⟩
  · intro hx
    rw [State.reg_advance, State.reg_setReg, if_neg hx.symm, State.reg_setFlag_self]
  · intro r hr
    simp only [List.mem_cons, List.not_mem_nil, or_false, not_or] at hr
    rw [State.reg_advance, State.reg_setReg, if_neg hr.1, State.reg_setFlag_of_ne s f hr.2]

/-- Settles O20: the sum is formed before the flag write, from the old operands. -/
theorem addSetsCarry : Obligations.AddSetsCarry := by
  intro s x y
  obtain ⟨t, ht, hval, hflag, hframe⟩ := exec_setFlag_setReg_spec s (.addVV x y) x
    (carryFlag (exactSum (s.reg x) (s.reg y))) (narrowSum (exactSum (s.reg x) (s.reg y))) rfl
  refine ⟨t, ht, ?_, ?_, hframe⟩
  · rw [hval]; exact narrowSum_toNat _
  · intro hx
    rw [hflag hx]; exact carryFlag_eq _

/-! ### Differences (R188, R190) -/

/-- A difference of registers read after the flag write, for each place of register 15. -/
theorem State.sub_setFlag_toNat (s : State) (f : Byte) (a b : Nibble) :
    (a ≠ 15 → b ≠ 15 → ((s.setFlag f).reg a - (s.setFlag f).reg b).toNat =
      ((s.reg a).toNat + 256 - (s.reg b).toNat) % 256) ∧
    (a ≠ 15 → b = 15 → ((s.setFlag f).reg a - (s.setFlag f).reg b).toNat =
      ((s.reg a).toNat + 256 - f.toNat) % 256) ∧
    (a = 15 → b ≠ 15 → ((s.setFlag f).reg a - (s.setFlag f).reg b).toNat =
      (f.toNat + 256 - (s.reg b).toNat) % 256) ∧
    (a = 15 → b = 15 → (s.setFlag f).reg a - (s.setFlag f).reg b = 0) := by
  refine ⟨?_, ?_, ?_, ?_⟩
  · intro ha hb
    rw [byte_sub_toNat, s.reg_setFlag_of_ne f ha, s.reg_setFlag_of_ne f hb]
  · rintro ha rfl
    rw [byte_sub_toNat, s.reg_setFlag_of_ne f ha, s.reg_setFlag_self]
  · rintro rfl hb
    rw [byte_sub_toNat, s.reg_setFlag_of_ne f hb, s.reg_setFlag_self]
  · rintro rfl rfl
    exact BitVec.sub_self _

/-- Settles O21: the minuend is `V[x]`. -/
theorem subtractAfterFlag : Obligations.SubtractAfterFlag := by
  intro s x y
  let f := greaterFlag (s.reg x) (s.reg y)
  obtain ⟨t, ht, hval, hflag, hframe⟩ := exec_setFlag_setReg_spec s (.sub x y) x f
    ((s.setFlag f).reg x - (s.setFlag f).reg y) rfl
  obtain ⟨hnone, hy, hx, hboth⟩ := s.sub_setFlag_toNat f x y
  rw [← hval] at hnone hy hx hboth
  exact ⟨t, ht, f.toNat, greaterFlag_toNat _ _, fun h => congrArg _ (hflag h), hnone, hy, hx, hboth,
    hframe⟩

/-- Settles O22: the minuend is `V[y]`. -/
theorem subtractReversedAfterFlag : Obligations.SubtractReversedAfterFlag := by
  intro s x y
  let f := greaterFlag (s.reg y) (s.reg x)
  obtain ⟨t, ht, hval, hflag, hframe⟩ := exec_setFlag_setReg_spec s (.subn x y) x f
    ((s.setFlag f).reg y - (s.setFlag f).reg x) rfl
  obtain ⟨hnone, hx, hy, hboth⟩ := s.sub_setFlag_toNat f y x
  rw [← hval] at hnone hx hy hboth
  exact ⟨t, ht, f.toNat, greaterFlag_toNat _ _, fun h => congrArg _ (hflag h),
    fun h h' => hnone h' h, fun h h' => hy h' h, fun h h' => hx h' h, fun h h' => hboth h' h, hframe⟩

/-! ### Shifts (R189, R191) -/

/-- Settles O23: for `x = 15` the shift acts on the flag, a single bit. -/
theorem shiftsByOne : Obligations.ShiftsByOne := by
  intro s x y
  constructor
  · let f := lowBitFlag (s.reg x)
    obtain ⟨t, ht, hval, hflag, hframe⟩ := exec_setFlag_setReg_spec s (.shr x y) x f
      ((s.setFlag f).reg x >>> 1) rfl
    refine ⟨t, ht, fun hx => ⟨?_, ?_⟩, ?_, hframe⟩
    · rw [hflag hx]; exact lowBitFlag_toNat _
    · rw [hval, s.reg_setFlag_of_ne f hx, byte_shiftRight_one_toNat]
    · rintro rfl
      apply BitVec.eq_of_toNat_eq
      have hbit : f.toNat = (s.reg 15).toNat % 2 := lowBitFlag_toNat _
      rw [hval, s.reg_setFlag_self, byte_shiftRight_one_toNat, hbit]
      change _ = 0
      omega
  · let f := highBitFlag (s.reg x)
    obtain ⟨t, ht, hval, hflag, hframe⟩ := exec_setFlag_setReg_spec s (.shl x y) x f
      ((s.setFlag f).reg x <<< 1) rfl
    refine ⟨t, ht, fun hx => ⟨?_, ?_⟩, ?_, hframe⟩
    · rw [hflag hx]; exact highBitFlag_toNat _
    · rw [hval, s.reg_setFlag_of_ne f hx, byte_shiftLeft_one_toNat]
    · rintro rfl
      have hbit : f.toNat = (s.reg 15).toNat / 128 := highBitFlag_toNat _
      have hbyte : (s.reg 15).toNat < 256 := (s.reg 15).isLt
      rw [hval, s.reg_setFlag_self, byte_shiftLeft_one_toNat, hbit]
      omega

/-! ### The random byte (R192) -/

theorem decode_wordXKK_rnd (x : Nibble) (kk : Byte) :
    decode (wordXKK 0xC x kk) = some (.rnd x kk) :=
  decode_encode (.rnd x kk)

/-- No draw is 0. -/
theorem rand_pos (k : Nat) : 1 ≤ (Config.rand k).toNat := by
  rw [rand_toNat]
  omega

/-- A draw under the whole mask is the draw. -/
theorem rand_and_ones_ne_zero (k : Nat) : Config.rand k &&& 0xFF ≠ 0 := by
  intro h
  have hzero : Config.rand k = 0 := (byte_and_ones _).symm.trans h
  have hpos := rand_pos k
  rw [hzero] at hpos
  exact absurd hpos (by decide)

/-- Settles O24: one register write, of the masked draw, in the state with one draw taken. -/
theorem randomByteMasked : Obligations.RandomByteMasked := by
  intro s x kk
  have hval : (s.takeDraw.setReg x (Config.rand s.draws &&& kk)).advance.reg x =
      Config.rand s.draws &&& kk := State.reg_setReg_self _ _ _
  refine ⟨decode_wordXKK_rnd x kk, _, rfl, ⟨_, rfl, rand_pos _, hval⟩, ?_, ?_,
    State.sameRegsBut_setReg s.takeDraw x _, rfl, rfl, rfl, fun _ => rfl⟩
  · rintro rfl
    rw [hval]
    exact rand_and_ones_ne_zero s.draws
  · rintro rfl
    rw [hval]
    exact BitVec.and_zero

end Sys2Proof.Machine
end

section
/-! The display family (40_display.md R130–R134): which pixels `Dxyn` turns over and what it leaves
unchanged, and drawing twice at one place. -/

namespace Sys2Proof.Machine

theorem State.sameRegsBut_setFlag (s : State) (v : Byte) : SameRegsBut s (s.setFlag v) [15] :=
  s.sameRegsBut_setReg 15 v

/-- Settles O26: the pixels are those of the sprite's specification, and with no row there is none to
draw and no hit. -/
theorem drawTurnsOverCoveredPixels : Obligations.DrawTurnsOverCoveredPixels := by
  intro s x y n
  obtain ⟨hpixels, -⟩ := s.drawSprite_spec (s.reg x).toNat (s.reg y).toNat n.toNat
    (by have := n.isLt; omega)
  refine ⟨_, rfl, hpixels, ?_, State.sameRegsBut_setFlag (s.setFb _) _, rfl, rfl, fun _ => rfl⟩
  rintro rfl
  exact ⟨rfl, State.reg_setFlag_self _ _⟩

/-- What a sprite covers depends on `I` and memory only. -/
theorem spriteCovers_congr {s t : State} (hindex : t.index = s.index) (hbytes : SameBytes s t) :
    spriteCovers t = spriteCovers s := by
  funext cx cy n px py
  simp only [spriteCovers, State.indexAddr, hindex, hbytes _]

/-- Settles O28: the second draw covers the same pixels as the first, so it turns each of them back, and
hits one exactly where the first set one. -/
theorem drawTwiceRestores : Obligations.DrawTwiceRestores := by
  intro s x y n hx hy
  obtain ⟨t, ht, hfirst, -, hregs, -, honly, hbytes⟩ := drawTurnsOverCoveredPixels s x y n
  obtain ⟨u, hu, hsecond, -⟩ := drawTurnsOverCoveredPixels t x y n
  obtain ⟨u', hu', -, hflag⟩ := collisionIsSetToUnset t x y n
  obtain rfl : u = u' := Host.Outcome.next.inj (hu.symm.trans hu')
  have hindex : t.index = s.index := by rw [honly]
  have hrx : t.reg x = s.reg x := hregs x (by simpa using hx)
  have hry : t.reg y = s.reg y := hregs y (by simpa using hy)
  have hback : ∀ px py, u.pixel px py = s.pixel px py := by
    intro px py
    rw [hsecond, hfirst, spriteCovers_congr hindex hbytes, hrx, hry, Bool.xor_assoc, Bool.xor_self,
      Bool.xor_false]
  refine ⟨t, u, ht, hu, framebuffer_ext _ _ hback, hflag.trans ?_⟩
  refine exists₂_congr fun px py => and_congr_right fun _ => and_congr_right fun _ => ?_
  rw [hback, hfirst, and_comm]
  exact and_congr_right fun hunset => by rw [hunset, Bool.false_xor]

end Sys2Proof.Machine
end

section
/-! The index and memory family (43_index_memory.md R221–R226; 20_memory.md R61–R66). -/

namespace Sys2Proof.Machine

/-! ### Memory and the fetch -/

/-- Addresses of one cell read the same byte (R61). -/
theorem State.read_of_cellIndex_eq (s : State) {a b : Nat} (h : cellIndex a = cellIndex b) :
    s.read a = s.read b := by
  rw [State.read, State.read, h]

/-- Settles O36: a read after a write, and an address and its reduction name one cell. -/
theorem readAfterWrite : Obligations.ReadAfterWrite := by
  intro s a b v
  constructor
  · simp only [State.read_write, cellIndex, eq_comm]
  · exact s.read_of_cellIndex_eq (Nat.add_mod_right a 4096)

/-- Settles O37: each of the two bytes is read at the reduced address. -/
theorem fetchIsBigEndian : Obligations.FetchIsBigEndian := by
  intro s
  have hfetch : s.fetchWord.toNat = (s.read (s.pc.toNat % 4096)).toNat * 256 +
      (s.read ((s.pc.toNat + 1) % 4096)).toNat := by
    rw [s.fetchWord_toNat, s.read_of_cellIndex_eq (Nat.mod_mod s.pc.toNat 4096),
      s.read_of_cellIndex_eq (Nat.mod_mod (s.pc.toNat + 1) 4096)]
  refine ⟨hfetch, fun htop => ?_⟩
  have hwrap : (s.pc.toNat + 1) % 4096 = 0 := by omega
  rw [hfetch, htop, hwrap]

/-! ### The index register -/

/-- Settles O30: the flag tests the index just written; the addend is read before it. -/
theorem addToIndexFlagsHighRegion : Obligations.AddToIndexFlagsHighRegion := by
  intro s x
  let i := s.index + zextByte (s.reg x)
  refine ⟨((s.setIndex i).setFlag (indexFlag i)).advance, rfl, ?_, ?_,
    State.sameRegsBut_setFlag (s.setIndex i) _, rfl, rfl, fun _ => rfl⟩
  · exact (BitVec.toNat_add _ _).trans (by rw [zextByte_toNat])
  · rw [State.reg_advance, State.reg_setFlag_self]
    simp [indexFlag, b2u]

/-- Settles O31: five times a byte is below 65536, so 16 bits hold it. -/
theorem glyphAddressIsFiveTimes : Obligations.GlyphAddressIsFiveTimes := by
  intro s x
  have hbyte : (s.reg x).toNat < 256 := (s.reg x).isLt
  refine ⟨(s.setIndex (BitVec.ofNat 16 ((s.reg x).toNat * 5))).advance, rfl, ?_, rfl, rfl,
    s.sameBytes_setIndex_advance _⟩
  rw [State.advance_index, State.setIndex_index, BitVec.toNat_ofNat]
  omega

/-! ### Block stores and loads -/

/-- An instruction that stores the bytes `vs` from `I` on and goes on: each stands at its offset, every
other byte is as before, and nothing but memory and `pc` changes. -/
theorem exec_storeFrom_spec (s : State) (i : Instr) (vs : List Byte) (hlength : vs.length ≤ 4096)
    (hexec : exec i s = .next (s.storeFrom 0 vs).advance) :
    ∃ t, exec i s = .next t ∧
      (∀ k (hk : k < vs.length), t.read (s.index.toNat + k) = vs[k]) ∧
      SameBytesOutside s t s.index.toNat vs.length ∧ t.pc = s.pc + 2 ∧ OnlyMemoryPc s t := by
  refine ⟨_, hexec, ?_, ?_, ?_, ?_⟩
  · intro k hk
    have hread := s.read_storeFrom vs 0 k hlength hk
    rwa [Nat.zero_add] at hread
  · intro b hb
    refine s.read_storeFrom_outside vs 0 b fun k hk => ?_
    rw [Nat.zero_add]
    exact hb k hk
  · rw [State.storeFrom_frame]; rfl
  · rw [State.storeFrom_frame]; rfl

theorem byte_ofNat_toNat {n : Nat} (h : n < 256) : (BitVec.ofNat 8 n).toNat = n := by
  rw [BitVec.toNat_ofNat]
  omega

/-- Settles O32: a store of the three digits, each of which a byte holds. -/
theorem decimalDigitsStored : Obligations.DecimalDigitsStored := by
  intro s x
  obtain ⟨t, ht, hread, hframe⟩ :=
    exec_storeFrom_spec s (.ldBV x) (decimalDigits (s.reg x)) (by simp [decimalDigits]) rfl
  have hbyte : (s.reg x).toNat < 256 := (s.reg x).isLt
  refine ⟨t, ht, ?_, ?_, ?_, hframe⟩
  · exact (congrArg BitVec.toNat (hread 0 (by simp [decimalDigits]))).trans
      (byte_ofNat_toNat (by omega))
  · exact (congrArg BitVec.toNat (hread 1 (by simp [decimalDigits]))).trans
      (byte_ofNat_toNat (by omega))
  · exact (congrArg BitVec.toNat (hread 2 (by simp [decimalDigits]))).trans
      (byte_ofNat_toNat (by omega))

theorem rangeReg_toNat (r : Nibble) : rangeReg r.toNat = r := by
  simp [rangeReg]

/-- Settles O33: a store of the values of the range. -/
theorem registerRangeStored : Obligations.RegisterRangeStored := by
  intro s x
  have hlength := s.rangeValues_length x
  obtain ⟨t, ht, hread, houtside, hframe⟩ :=
    exec_storeFrom_spec s (.ldMemV x) (s.rangeValues x) (by have := x.isLt; omega) rfl
  rw [hlength] at houtside
  refine ⟨t, ht, fun r hr => ?_, houtside, hframe⟩
  rw [hread r.toNat (by omega)]
  simp [State.rangeValues, registerRange, rangeReg_toNat]

/-- Settles O34: a load of the range, which touches registers only. -/
theorem registerRangeLoaded : Obligations.RegisterRangeLoaded := by
  intro s x
  refine ⟨_, rfl, s.reg_loadRegs_registerRange x, ?_, ?_⟩
  · rw [State.loadRegs_frame]; rfl
  · rw [State.loadRegs_frame]; exact ⟨rfl, fun _ => rfl⟩

/-- Settles O35: with `I = pc + 2` the next fetch reads the cells of `V[0]` and `V[1]`. -/
theorem storedWordIsFetchedNext : Obligations.StoredWordIsFetchedNext := by
  intro s x hx hindex
  obtain ⟨t, ht, hread, -, hpc, -⟩ := registerRangeStored s x
  have hhigh : t.read t.pc.toNat = s.reg 0 := by
    rw [hpc, ← hindex]
    exact hread 0 (Nat.zero_le _)
  have hlow : t.read (t.pc.toNat + 1) = s.reg 1 := by
    rw [hpc, ← hindex]
    exact hread 1 hx
  exact ⟨t, ht, by rw [t.fetchWord_toNat, hhigh, hlow]⟩

end Sys2Proof.Machine
end

section
/-! The keys and timers family (44_keys_timers.md R250–R256): the skips on a key, the key wait and the
timer writes. -/

namespace Sys2Proof.Machine

/-! ### Keys -/

/-- The key a register names is that of its low nibble (R250). -/
theorem State.keyOf_eq (s : State) (x : Nibble) : s.keyOf x = s.keyDown ((s.reg x).toNat % 16) := by
  rw [State.keyOf, keyMask_toNat]

/-- Settles O38: both are skips, the one on the key pressed, the other on its negation. -/
theorem keypadSkips : Obligations.KeypadSkips := by
  intro s x
  rw [← s.keyOf_eq x]
  constructor
  · exact exec_skip_spec s (.skp x) (s.keyOf x) _ rfl Iff.rfl
  · exact exec_skip_spec s (.sknp x) (!s.keyOf x) _ rfl (by simp)

/-- The lowest pressed key is found (R254). -/
theorem State.lowestKey_eq_some {s : State} {k : Nat} (hk : k < 16) (hdown : s.keyDown k = true)
    (hlower : ∀ j, j < k → s.keyDown j = false) : s.lowestKey = some k :=
  List.find?_range_eq_some.mpr ⟨hdown, List.mem_range.mpr hk, fun j hj => by simp [hlower j hj]⟩

/-- With no key pressed there is no lowest one. -/
theorem State.lowestKey_eq_none {s : State} (hup : ∀ k, k < 16 → s.keyDown k = false) :
    s.lowestKey = none :=
  List.find?_range_eq_none.mpr fun k hk => by simp [hup k hk]

/-- Settles O41: mode `noop` is an advance; mode `block` is one register write of the lowest key, or the
same state. -/
theorem keyWaitByMode : Obligations.KeyWaitByMode := by
  intro s x
  refine ⟨fun hmode => ?_, fun hmode => ⟨fun k hk hdown hlower => ?_, fun hup => ?_⟩⟩
  · have hexec : exec (.ldVK x) s = .next s.advance :=
      congrArg Host.Outcome.next (by rw [State.keyWait, hmode])
    exact ⟨s.advance, hexec, rfl, s.onlyPc_jump _⟩
  · have hexec : exec (.ldVK x) s = .next (s.setReg x (BitVec.ofNat 8 k)).advance :=
      congrArg Host.Outcome.next
        (by rw [State.keyWait, hmode]
            simp only [State.waitKey, State.lowestKey_eq_some hk hdown hlower])
    obtain ⟨t, ht, hval, hframe⟩ := exec_setReg_spec s (.ldVK x) x (BitVec.ofNat 8 k) hexec
    exact ⟨t, ht, hval ▸ byte_ofNat_toNat (by omega), hframe⟩
  · exact congrArg Host.Outcome.next
      (by rw [State.keyWait, hmode]; simp only [State.waitKey, State.lowestKey_eq_none hup])

/-! ### Timers -/

/-- Settles O40: both write a timer and go on; the countdown that ends the step reads the value
written. -/
theorem timerWritesCountOnce : Obligations.TimerWritesCountOnce := by
  intro s x
  refine ⟨⟨_, rfl, rfl, rfl, rfl, fun _ => rfl⟩, ⟨_, rfl, rfl, rfl, rfl, fun _ => rfl⟩, ?_⟩
  intro hlive hdecode
  have hstep : step s = .next (s.setDelay (s.reg x)).advance.timerUpdate :=
    step_of_live_of_exec hlive hdecode rfl hlive.2
  exact ⟨_, hstep, countDown_toNat (s.reg x)⟩

end Sys2Proof.Machine
end

section
/-! Reset and the host's transactions (10_state.md R38; 60_exceptions.md R296; 70_reset_and_hazards.md
R320–R326): the state after reset, Initialize, LoadProgram, the framebuffer view, and the invariant. -/

namespace Sys2Proof.Machine

/-! ### Initialize (R320) -/

/-- After Initialize a cell of the glyph table holds its glyph byte. -/
theorem State.read_initializeCore_glyph (s : State) (a : Fin 80) :
    s.initializeCore.read a.val = s.config.glyphs[a] := by
  have hcell : cellIndex a.val = a.val := Nat.mod_eq_of_lt (by omega)
  rw [State.read, hcell, cellAt_initializeCore, if_neg (by omega)]
  exact s.initializeCore.unlisted_glyph rfl a

/-- Initialize leaves memory from `0x050` on. -/
theorem State.read_initializeCore_above (s : State) {a : Nat} (hlow : 80 ≤ a) (hhigh : a < 4096) :
    s.initializeCore.read a = s.read a := by
  have hcell : cellIndex a = a := Nat.mod_eq_of_lt hhigh
  rw [State.read, State.read, hcell, cellAt_initializeCore, if_pos hlow,
    State.unlisted_above _ a hlow, State.unlisted_above _ a hlow]

theorem State.reg_initializeCore (s : State) (r : Nibble) : s.initializeCore.reg r = 0 :=
  Vector.getElem_replicate _

theorem State.keyDown_initializeCore (s : State) (k : Nat) : s.initializeCore.keyDown k = false :=
  Vector.getElem_replicate _

theorem State.pixel_initializeCore (s : State) (px py : Nat) :
    s.initializeCore.pixel px py = false :=
  pixelAt_blankFb px py

/-- Settles O48: the transaction is Initialize, field by field. -/
theorem initializeResetsAll : Obligations.InitializeResetsAll := fun s =>
  ⟨_, rfl, s.reg_initializeCore, rfl, rfl, fun j => Vector.getElem_replicate j.isLt, rfl,
    s.keyDown_initializeCore, rfl, rfl, s.pixel_initializeCore, rfl, rfl, rfl,
    s.read_initializeCore_glyph, fun _ => s.read_initializeCore_above⟩

/-- Settles O47: the state after reset is Initialize at power-on. -/
theorem resetStateValues : Obligations.ResetStateValues := by
  refine ⟨State.powerOn.reg_initializeCore, rfl, rfl, fun j => Vector.getElem_replicate j.isLt, rfl,
    State.powerOn.keyDown_initializeCore, rfl, rfl, State.powerOn.pixel_initializeCore, rfl, ?_, rfl⟩
  intro d k
  exact State.powerOn.read_initializeCore_glyph ⟨5 * d.val + k.val, by omega⟩

/-! ### LoadProgram (R321, R322) -/

theorem loadProgram_of_le {bytes : List Byte} (s : State) (h : bytes.length ≤ 3584) :
    loadProgram bytes s = .next (s.copyImage bytes).initializeCore :=
  if_neg (Nat.not_lt.mpr h)

theorem loadProgram_of_lt {bytes : List Byte} (s : State) (h : 3584 < bytes.length) :
    loadProgram bytes s = .refused .loadTooLong :=
  if_pos h

theorem paddedImage_length {bytes : List Byte} (h : bytes.length ≤ 3584) :
    (paddedImage bytes).length = 3584 := by
  simp [paddedImage, imageSize, h]

/-- A byte of the padded image is a byte of the program, or 0 after its end. -/
theorem paddedImage_getElem? (bytes : List Byte) {a : Nat} (ha : a < 3584) :
    (paddedImage bytes)[a]? = some (bytes.getD a 0) := by
  rw [paddedImage, List.getElem?_append]
  by_cases h : a < bytes.length
  · simp [h]
  · have hpad : a - bytes.length < imageSize - bytes.length := by unfold imageSize; omega
    simp [h, hpad]

/-- After the copy a cell from `0x200` on lists its byte of the image, one below lists what it did. -/
theorem cellAt_copyImage (s : State) (bytes : List Byte) (a : Nat) :
    cellAt (s.copyImage bytes).memory a =
      if 0x200 ≤ a then (paddedImage bytes)[a - 0x200]? else cellAt s.memory a := by
  rw [State.copyImage, cellAt_append, cellAt_cellsFrom,
    cellAt_filter (fun c => decide (c < 0x200)) a s.memory]
  by_cases h : 0x200 ≤ a
  · simp [h, Nat.not_lt.mpr h]
  · simp [h, Nat.lt_of_not_le h]

/-- The copy leaves memory below `0x200`. -/
theorem State.read_copyImage_below (s : State) (bytes : List Byte) {a : Nat} (ha : a < 0x200) :
    (s.copyImage bytes).read a = s.read a := by
  have hcell : cellIndex a = a := Nat.mod_eq_of_lt (by omega)
  rw [State.read, hcell, cellAt_copyImage, if_neg (Nat.not_le.mpr ha), State.read, hcell]
  rfl

/-- The copy lays the image, padded with zeros, from `0x200` on. -/
theorem State.read_copyImage_image (s : State) (bytes : List Byte) {a : Nat} (ha : a < 3584) :
    (s.copyImage bytes).read (0x200 + a) = bytes.getD a 0 := by
  have hcell : cellIndex (0x200 + a) = 0x200 + a := Nat.mod_eq_of_lt (by omega)
  rw [State.read, hcell, cellAt_copyImage, if_pos (by omega), Nat.add_sub_cancel_left,
    paddedImage_getElem? bytes ha, Option.getD_some]

/-- Settles O49: the copy, then the reset, which writes the glyph table and leaves memory above it. -/
theorem loadProgramCopiesAndResets : Obligations.LoadProgramCopiesAndResets := by
  intro s bytes
  refine ⟨fun hlength => ⟨_, loadProgram_of_le s hlength, ?_, ?_, ?_, rfl⟩, loadProgram_of_lt s⟩
  · intro a ha
    rw [State.read_initializeCore_above _ (by omega) (by omega), s.read_copyImage_image bytes ha]
  · exact (s.copyImage bytes).read_initializeCore_glyph
  · intro a hlow hhigh
    rw [State.read_initializeCore_above _ hlow (by omega), s.read_copyImage_below bytes hhigh]

/-! ### The framebuffer view (R296) -/

/-- The view joins the rows. -/
theorem framebufferView_eq (s : State) : framebufferView s = s.fb.flatten.toList := by
  simp only [framebufferView, List.flatMap, Vector.flatten, Vector.toList, Array.toList_flatten,
    Array.toList_map, List.map_map]
  rfl

/-- Settles O51: pixel `(px, py)` stands at `py * 64 + px` of the joined rows. -/
theorem framebufferViewIsRowMajor : Obligations.FramebufferViewIsRowMajor := by
  intro s px py hpx hpy
  rw [framebufferView_eq]
  refine ⟨Vector.length_toList, ?_⟩
  have hindex : py * 64 + px < 32 * 64 := by omega
  have hrow : (py * 64 + px) / 64 = py := by omega
  have hcolumn : (py * 64 + px) % 64 = px := by omega
  rw [Vector.getElem?_toList, Vector.getElem?_eq_getElem hindex, Vector.getElem_flatten]
  simp [State.pixel, pixelAt, wrapRow, wrapColumn, hrow, hcolumn, Nat.mod_eq_of_lt hpx,
    Nat.mod_eq_of_lt hpy]

/-! ### The invariant -/

theorem risingCells_append {m n : List Host.Cell} (hm : risingCells m = true)
    (hn : risingCells n = true) (h : ∀ c ∈ m, ∀ d ∈ n, c.1 < d.1) :
    risingCells (m ++ n) = true := by
  induction m with
  | nil => exact hn
  | cons c m ih =>
    simp only [risingCells, Bool.and_eq_true, List.cons_append, List.all_append, List.all_eq_true,
      decide_eq_true_eq] at hm ⊢
    exact ⟨⟨hm.1, h c List.mem_cons_self⟩, ih hm.2 fun d hd => h d (List.mem_cons_of_mem c hd)⟩

/-- The copy keeps memory canonical: the cells kept stand below the cells of the image. -/
theorem State.memoryWf_copyImage {s : State} {bytes : List Byte} (hlength : bytes.length ≤ 3584)
    (hwf : s.memoryWf = true) : (s.copyImage bytes).memoryWf = true := by
  simp only [State.memoryWf, Bool.and_eq_true, List.all_eq_true] at hwf ⊢
  obtain ⟨hrising, hcells⟩ := hwf
  have himage : ∀ c ∈ cellsFrom 0x200 (paddedImage bytes), 0x200 ≤ c.1 ∧ c.1 < 4096 := by
    intro c hc
    have hbounds := mem_cellsFrom _ _ c hc
    rwa [paddedImage_length hlength] at hbounds
  constructor
  · refine risingCells_append (risingCells_filter _ _ hrising) (risingCells_cellsFrom _ _) ?_
    intro c hc d hd
    exact Nat.lt_of_lt_of_le (of_decide_eq_true (List.mem_filter.mp hc).2) (himage d hd).1
  · intro c hc
    obtain hkept | hnew := List.mem_append.mp hc
    · exact hcells c (List.mem_filter.mp hkept).1
    · obtain ⟨hlow, hhigh⟩ := himage c hnew
      rw [State.glyphByte_above _ _ (by omega)]
      exact ⟨decide_eq_true hhigh, rfl⟩

/-- Initialize gives a core with no record and no output. -/
theorem inv_initializeCore {s : State} (hmemory : s.memoryWf = true) : Inv s.initializeCore :=
  inv_of_no_fault (s.memoryWf_initializeCore hmemory) rfl fun _ hr => nomatch hr

/-- The keypad is no part of the invariant. -/
theorem inv_withKeypad {s : State} (keys : Vector Bool 16) (hinv : Inv s) :
    Inv (s.withKeypad keys) where
  memory := hinv.memory
  precise := hinv.precise
  output := hinv.output

/-- Settles O54: LoadProgram is a copy and Initialize, and SetKey writes the keypad or nothing. -/
theorem transactionsKeepInvariant : Obligations.TransactionsKeepInvariant := by
  intro s bytes k p hinv
  refine ⟨inv_initializeCore hinv.memory, fun t ht => ?_, fun t ht => ?_⟩
  · by_cases hlength : bytes.length ≤ 3584
    · rw [loadProgram_of_le s hlength] at ht
      cases ht
      exact inv_initializeCore (State.memoryWf_copyImage hlength hinv.memory)
    · rw [loadProgram_of_lt s (Nat.lt_of_not_le hlength)] at ht
      cases ht
  · cases hstarted : s.started with
    | false => rw [setKey_of_not_started k p hstarted] at ht; cases ht
    | true =>
      by_cases hk : k < 16
      · rw [setKey_of_lt s k p hstarted hk] at ht
        cases ht
        exact inv_withKeypad _ hinv
      · rw [setKey_of_le s k p hstarted (Nat.le_of_not_lt hk)] at ht
        cases ht
        exact hinv

end Sys2Proof.Machine
end
